-- ==== Sys2Proof/Word.lean ====
section
/-! DEFINITION. The word types of the CORE: the widths of 00_scope.md rule R8. -/

namespace Sys2Proof

/-- One byte: a data byte, a register address, a count, a divisor, a facade register (R8). -/
abbrev Byte := BitVec 8

/-- A Device Address: 7 bits (R8, `DEVW`). -/
abbrev DevAddr := BitVec 7

/-- A host register access: 32 bits (R8, `HW`). -/
abbrev Word := BitVec 32

/-- A host register index: 10 bits (R8, `HAW`). -/
abbrev HostIndex := BitVec 10

/-- The decoding key of a phase action: the nine bits `OWN ‖ word` (30_encoding.md R116). -/
abbrev Key := BitVec 9

end Sys2Proof
end

