-- ==== Sys2Proof/Syntax.lean ====
section
/-! DEFINITION. The instructions of the hardware: one constructor per row of spec/opcode_table.json, the five
host commands (format C) and the seven facade control words (format P); and the assembler's line (R129). -/

namespace Sys2Proof

/-- An instruction (30_encoding.md R110). The operand of a phase action is bit 0 of its control word, the copy
of the `EN` flag (R118). -/
inductive Instr where
  /-- `INIT div` (40_init.md R140). -/
  | init (div : Byte)
  /-- `WRITE_BYTE dev, reg, data` (42_transactions.md R196). -/
  | writeByte (dev : DevAddr) (reg data : Byte)
  /-- `WRITE_BYTES dev, reg, count` (R197). -/
  | writeBytes (dev : DevAddr) (reg count : Byte)
  /-- `READ_BYTE dev, reg` (R198). -/
  | readByte (dev : DevAddr) (reg : Byte)
  /-- `READ_BYTES dev, reg, count` (R199). -/
  | readBytes (dev : DevAddr) (reg count : Byte)
  /-- `START` (41_phase_sequencer.md R160). -/
  | start (en : Bool)
  /-- `RSTART` (R161). -/
  | rstart (en : Bool)
  /-- `SEND` (R162). -/
  | send (en : Bool)
  /-- `RECV_ACK` (R163). -/
  | recvAck (en : Bool)
  /-- `RECV_NACK` (R164). -/
  | recvNack (en : Bool)
  /-- `STOP`, and in phase state `ABORTED` the best-effort stop (R165, R166). -/
  | stop (en : Bool)
  /-- `ENABLE` (40_init.md R142). -/
  | enable
  deriving DecidableEq, Repr

/-- The encoded form of an instruction. "a decoder knows the length from the port the word appears on" (R110):
a command word on the host port, or a control word with its `OWN` bit. -/
inductive Encoded where
  | command (w : Word)
  | key (k : Key)
  deriving DecidableEq, Repr

/-- One assembler line of the five commands, its operands as numbers (30_encoding.md R129). -/
inductive AsmLine where
  | init (div : Nat)
  | writeByte (dev reg data : Nat)
  | writeBytes (dev reg count : Nat)
  | readByte (dev reg : Nat)
  | readBytes (dev reg count : Nat)
  deriving DecidableEq, Repr

end Sys2Proof
end

