-- ==== Sys2Proof/Decode.lean ====
section
/-! DEFINITION. The decoder of command words and of control-word keys (30_encoding.md R110 to R119), total on
any bits and rejecting by name; the encoder after it; and the host's `decodeTableWord`. -/

namespace Sys2Proof

/-- Why a word is no instruction. -/
inductive DecodeError where
  /-- Opcode 0 or 6 to 15 (30_encoding.md R112, R115). -/
  | reservedOpcode
  /-- An opcode of 1 to 5 with a must-be-zero bit set (R113, R115). -/
  | mustBeZeroSet
  /-- A key that is none of the seven control words (R120). -/
  | noSuchControlWord
  /-- More bits than the format has (R110). -/
  | tooLong
  deriving DecidableEq, Repr

/-- The fields of a command word (R111): the layout `OPC[31:28] ‖ Z1[27] ‖ DEV[26:20] ‖ REG[19:12] ‖ Z2[11:8] ‖ ARG[7:0]`. -/
def opcField (w : Word) : BitVec 4 := w.extractLsb' 28 4
/-- `DEV[26:20]` (R111). -/
def devField (w : Word) : DevAddr := w.extractLsb' 20 7
/-- `REG[19:12]` (R111). -/
def regField (w : Word) : Byte := w.extractLsb' 12 8
/-- `ARG[7:0]` (R111). -/
def argField (w : Word) : Byte := w.extractLsb' 0 8

/-- `(w & mask) = match` (R114). -/
def matches32 (w mask pattern : Word) : Bool := w &&& mask == pattern

/-- R114: the five rows, each by its mask and match. -/
def decodeCommand (w : Word) : Except DecodeError Instr :=
  if matches32 w 0xFFFFFF00#32 0x10000000#32 then .ok (.init (argField w))
  else if matches32 w 0xF8000F00#32 0x20000000#32 then .ok (.writeByte (devField w) (regField w) (argField w))
  else if matches32 w 0xF8000F00#32 0x30000000#32 then .ok (.writeBytes (devField w) (regField w) (argField w))
  else if matches32 w 0xF8000FFF#32 0x40000000#32 then .ok (.readByte (devField w) (regField w))
  else if matches32 w 0xF8000F00#32 0x50000000#32 then .ok (.readBytes (devField w) (regField w) (argField w))
  else if opcField w == 0#4 || 6#4 ≤ opcField w then .error .reservedOpcode
  else .error .mustBeZeroSet

/-- `(k & mask) = match`, on keys (R118). -/
def matches9 (k mask pattern : Key) : Bool := k &&& mask == pattern

/-- R118, R119: the six action rows with bit 0 left free, and the `ENABLE` row matched in full. -/
def decodeKey (k : Key) : Except DecodeError Instr :=
  if matches9 k 0x1FE#9 0x082#9 then .ok (.start (k.getLsbD 0))
  else if matches9 k 0x1FE#9 0x182#9 then .ok (.rstart (k.getLsbD 0))
  else if matches9 k 0x1FE#9 0x180#9 then .ok (.send (k.getLsbD 0))
  else if matches9 k 0x1FE#9 0x198#9 then .ok (.recvAck (k.getLsbD 0))
  else if matches9 k 0x1FE#9 0x188#9 then .ok (.recvNack (k.getLsbD 0))
  else if matches9 k 0x1FE#9 0x184#9 then .ok (.stop (k.getLsbD 0))
  else if matches9 k 0x1FF#9 0x001#9 then .ok .enable
  else .error .noSuchControlWord

/-- The decoder: the port the word appears on says which format it is (R110). -/
def decode : Encoded → Except DecodeError Instr
  | .command w => decodeCommand w
  | .key k => decodeKey k

/-- A command word put together from its fields (R111), the reserved fields `Z1` and `Z2` zero. -/
def commandWord (opc : BitVec 4) (dev : DevAddr) (reg arg : Byte) : Word :=
  opc ++ 0#1 ++ dev ++ reg ++ 0#4 ++ arg

/-- A key put together from its parts (R116): `OWN ‖ GO ‖ 00 ‖ ACK ‖ RD ‖ STO ‖ STA ‖ EN`. -/
def keyWord (own go ack rd sto sta en : Bool) : Key :=
  BitVec.ofBool own ++ BitVec.ofBool go ++ 0#2 ++ BitVec.ofBool ack ++ BitVec.ofBool rd ++ BitVec.ofBool sto ++
    BitVec.ofBool sta ++ BitVec.ofBool en

/-- The encoder, from the field tables R112, R113, R117 and R119. -/
def encode : Instr → Encoded
  | .init div => .command (commandWord 1#4 0#7 0#8 div)
  | .writeByte dev reg data => .command (commandWord 2#4 dev reg data)
  | .writeBytes dev reg count => .command (commandWord 3#4 dev reg count)
  | .readByte dev reg => .command (commandWord 4#4 dev reg 0#8)
  | .readBytes dev reg count => .command (commandWord 5#4 dev reg count)
  | .start e => .key (keyWord false true false false false true e)
  | .rstart e => .key (keyWord true true false false false true e)
  | .send e => .key (keyWord true true false false false false e)
  | .recvAck e => .key (keyWord true true true true false false e)
  | .recvNack e => .key (keyWord true true false true false false e)
  | .stop e => .key (keyWord true true false false true false e)
  | .enable => .key (keyWord false false false false false false true)

/-- The bits `w` of a table row of `nbits` bits (in whole bytes) as a word of one of the two formats: a row of
up to 16 bits is a 9-bit key (bits above bit 8 must be 0), a longer one a 32-bit command word. -/
def tableWord (nbits w : Nat) : Except DecodeError Encoded :=
  if nbits ≤ 16 then
    if w < 2 ^ 9 then .ok (.key (BitVec.ofNat 9 w)) else .error .tooLong
  else if w < 2 ^ 32 then .ok (.command (BitVec.ofNat 32 w))
  else .error .tooLong

/-- What the decoder reads from an opcode-table word. -/
def decodeTableWord (nbits w : Nat) : Option Instr :=
  match tableWord nbits w with
  | .ok e => (decode e).toOption
  | .error _ => none

end Sys2Proof
end

