-- ==== Sys2Proof/Config.lean ====
section
/-! DEFINITION. What an implementation fixes (the two open parameters of 00_scope.md rule R8), and the free
values: bodiless constants of which nothing can be proved but their type. -/

namespace Sys2Proof

/-- The build-time parameters of one CORE (R8, R9). `TMO` is held as the number below it, so that the rule's
`TMO >= 1` is a fact of the type. -/
structure Params where
  /-- `TMO - 1`. -/
  tmoLessOne : Nat
  /-- `RD0_FULL`: whether a zero-count read runs the repeated start and the read address. -/
  rd0Full    : Bool
  deriving DecidableEq, Repr

/-- `TMO`, the Timeout Budget: the number of polls one phase may take (R8). -/
def Params.tmo (p : Params) : Nat := p.tmoLessOne + 1

/-- OPEN (92_eei_decisions.md D9; log 1): `TMO - 1` of the CORE that `State.reset` describes. -/
opaque Config.tmoLessOne : Nat

/-- OPEN (92_eei_decisions.md D15; log 1): `RD0_FULL` of the CORE that `State.reset` describes. -/
opaque Config.rd0Full : Bool

/-- FREE VALUE (93_implementation_defined.md U3, U4, U11; log 3): what the facade answers to a `FacRead` for
which the state lists no answer. The argument is the state's counter of free values. -/
opaque Config.facadeAnswer : Nat → Byte

/-- FREE VALUE (U7; log 4): bits 7:0 of a host read of a `BUF` cell never written since reset. -/
opaque Config.unwrittenBufByte : Nat → Byte

/-- FREE VALUE (70_reset_and_hazards.md R262; log 7): what facade register `k` holds when the CORE comes out
of its first reset. -/
opaque Config.facadeAtReset : Nat → Byte

end Sys2Proof
end

