-- ==== Sys2Proof/Machine/State.lean ====
section
/-! DEFINITION. The state of the CORE (10_state.md R20 to R35), the platform's registers at the facade port
(R47 to R50), the ports, the reasons to stop, and the state after reset (70_reset_and_hazards.md R261). -/

namespace Sys2Proof.Machine

/-- The phase state `PH` (10_state.md R26): the twelve names of 30_encoding.md R126. Its four-bit code is
`Phase.code` in Operands.lean; the codes 12 to 15 are never held (log 11). -/
inductive Phase where
  | idle | start | addrW | regAddr | dataW | rstart | addrR | dataRAck | dataRNack | stop | aborted | init
  deriving DecidableEq, Repr

/-- The micro-step within the phase, `MS` (R27): the four names of 30_encoding.md R127. -/
inductive MicroStep where
  | load | issue | poll | fetch
  deriving DecidableEq, Repr

/-- The opcode latched in `OPC` (R22): "no command yet", or one of the five commands of 30_encoding.md R112. -/
inductive Opcode where
  | none | init | writeByte | writeBytes | readByte | readBytes
  deriving DecidableEq, Repr

/-- A status code, the content of `RESULT` (R31): the three names of 30_encoding.md R125. -/
inductive Status where
  | success | error | timeout
  deriving DecidableEq, Repr

/-- A facade register (R47). -/
inductive FacReg where
  | ctrl | stat | data | baud
  deriving DecidableEq, Repr

/-- One facade access: an entry of the event history (60_exceptions.md R249). -/
inductive FacAccess where
  | read (r : FacReg) (v : Byte)
  | write (r : FacReg) (v : Byte)
  deriving DecidableEq, Repr

/-- One host access on the register port (R36). -/
inductive HostAccess where
  | read (a : HostIndex)
  | write (a : HostIndex) (w : Word)
  deriving DecidableEq, Repr

/-- What acts next: the host with one access, the sequencer with its micro-step, or the reset input for one
cycle, with or without a host access in that cycle (00_scope.md R13; 10_state.md R45; 70_reset_and_hazards.md R260). -/
inductive Input where
  | host (a : HostAccess)
  | tick
  | rst (a : Option HostAccess)
  deriving DecidableEq, Repr

/-- The platform's four registers as they stand after the CORE's accesses (R47 to R50). -/
structure Facade where
  ctrl : Byte
  stat : Byte
  data : Byte
  baud : Byte
  deriving DecidableEq, Repr

/-- The data buffer's written cells, as (index, byte) pairs with rising index; an unlisted cell has no value
(10_state.md R35). -/
abbrev Memory := List Host.Cell

/-- The whole machine. -/
structure State where
  /-- `EN` (R20). -/
  en : Bool
  /-- `DIV` (R21). -/
  div : Byte
  /-- `OPC` (R22). -/
  opc : Opcode
  /-- `DEV` (R23). -/
  dev : DevAddr
  /-- `REG` (R24). -/
  reg : Byte
  /-- `ARG`, also `CNT` (R25). -/
  arg : Byte
  /-- `PH` (R26). -/
  ph : Phase
  /-- `MS` (R27). -/
  ms : MicroStep
  /-- `IDX` (R28). -/
  idx : Byte
  /-- `TCNT` (R29): "A natural number in the range 0 to `TMO`". -/
  tcnt : Nat
  /-- `OWN` (R30). -/
  own : Bool
  /-- `RESULT` (R31). -/
  result : Status
  /-- `VALID` (R32). -/
  valid : Bool
  /-- `CMDERR` (R33). -/
  cmderr : Bool
  /-- `RDATA` (R35). -/
  rdata : Byte
  /-- `BUF` (R35): the cells written since reset. -/
  buf : Memory
  /-- The facade registers (R47 to R50), state of the platform. -/
  facade : Facade
  /-- `h_rdata`: the word the last host read returned (R36; log 8). -/
  hrdata : Word
  /-- `TMO` and `RD0_FULL` (00_scope.md R8): no step writes them. -/
  params : Params
  /-- The model's own: the facade accesses made, newest first (60_exceptions.md R249; log 6). -/
  history : List FacAccess
  /-- The model's own: what acts next, in order (log 2). -/
  inputs : List Input
  /-- The model's own: the facade's answers to the coming reads, in order (log 3). -/
  answers : List Byte
  /-- The model's own: the number of free values used (log 3, log 4). -/
  freeNext : Nat
  deriving DecidableEq, Repr

/-- The ways the machine stops. Every one is safe: the model has no successor state where the spec gives none. -/
inductive Fault where
  /-- A `CMD` write, or an access to the buffer window, while `BUSY = 1`; raised by the host access (42_transactions.md
  R193; 70_reset_and_hazards.md R267; U1, U2: "fault (`HostReentry`)"). Safe. -/
  | hostReentry
  /-- The `LOAD` of a `WRITE_BYTES` data phase reads a `BUF` cell not written since reset; raised by that micro-step
  (10_state.md R35; 70_reset_and_hazards.md R268; U7: "fault ... (`BufUninit`)"). Safe. -/
  | bufUninit
  /-- A phase action run in a phase state that does not issue it (30_encoding.md R117, R120); raised by the
  action's meaning, which no step runs there (log 9). Safe. -/
  | wrongPhase
  /-- A micro-step that the kind of phase does not have (41_phase_sequencer.md R151); raised by the action's
  meaning, which no step from a reachable state runs there (log 9, log 16). Safe. -/
  | noMicroStep
  /-- A `(PH, OPC)` pair of which R159 and R195 say "No other combination is reachable"; raised by `LOAD` or by
  `phase_done()` (log 9). Safe. -/
  | unreachablePair
  deriving DecidableEq, Repr

/-- The ways the model itself declines. -/
inductive Refusal where
  /-- An instruction whose meaning is not written; raised by an arm of `exec` only, and by none at present. Safe. -/
  | notModelled (mnemonic : String)
  deriving DecidableEq, Repr

/-- R261, element by element. The facade's registers are the platform's (R262): opaque. `TMO` and `RD0_FULL`
are open (00_scope.md R8): opaque. -/
def State.reset : State where
  en := false
  div := 0
  opc := .none
  dev := 0
  reg := 0
  arg := 0
  ph := .idle
  ms := .load
  idx := 0
  tcnt := 0
  own := false
  result := .success
  valid := false
  cmderr := false
  rdata := 0
  buf := []
  facade :=
    { ctrl := Config.facadeAtReset 0, stat := Config.facadeAtReset 1,
      data := Config.facadeAtReset 2, baud := Config.facadeAtReset 3 }
  hrdata := 0
  params := { tmoLessOne := Config.tmoLessOne, rd0Full := Config.rd0Full }
  history := []
  inputs := []
  answers := []
  freeNext := 0

end Sys2Proof.Machine
end

