-- ==== Sys2Proof/Machine/Operands.lean ====
section
/-! DEFINITION. Codes, operand assembly and the buffer: 30_encoding.md R112, R121 to R127, 41_phase_sequencer.md
R159, 20_memory.md R71. -/

namespace Sys2Proof.Machine

/-- The opcode values (R112); 0 is "no command yet" (10_state.md R22). -/
def Opcode.code : Opcode → BitVec 4
  | .none => 0
  | .init => 1
  | .writeByte => 2
  | .writeBytes => 3
  | .readByte => 4
  | .readBytes => 5

/-- The codes of `PH` (R126). -/
def Phase.code : Phase → BitVec 4
  | .idle => 0
  | .start => 1
  | .addrW => 2
  | .regAddr => 3
  | .dataW => 4
  | .rstart => 5
  | .addrR => 6
  | .dataRAck => 7
  | .dataRNack => 8
  | .stop => 9
  | .aborted => 10
  | .init => 11

/-- The codes of `MS` (R127). -/
def MicroStep.code : MicroStep → BitVec 2
  | .load => 0
  | .issue => 1
  | .poll => 2
  | .fetch => 3

/-- The status codes (R125). -/
def Status.code : Status → BitVec 2
  | .success => 0
  | .error => 1
  | .timeout => 2

/-- The facade indices (10_state.md R47). -/
def FacReg.index : FacReg → BitVec 2
  | .ctrl => 0
  | .stat => 1
  | .data => 2
  | .baud => 3

/-- The kinds of phase (41_phase_sequencer.md R151): the condition phases. -/
def Phase.isCondition : Phase → Bool
  | .start | .rstart | .stop | .aborted => true
  | .idle | .addrW | .regAddr | .dataW | .addrR | .dataRAck | .dataRNack | .init => false

/-- R151: the send phases. -/
def Phase.isSend : Phase → Bool
  | .addrW | .regAddr | .dataW | .addrR => true
  | .idle | .start | .rstart | .dataRAck | .dataRNack | .stop | .aborted | .init => false

/-- R151: the receive phases. -/
def Phase.isReceive : Phase → Bool
  | .dataRAck | .dataRNack => true
  | .idle | .start | .addrW | .regAddr | .dataW | .rstart | .addrR | .stop | .aborted | .init => false

/-- The address byte `DEV[6:0] ‖ rw` (R121). -/
def addressByte (dev : DevAddr) (rw : Bool) : Byte := dev ++ BitVec.ofBool rw

/-- A control word: `action_bits | zext_8(EN)` (R118). -/
def controlWord (actionBits : Byte) (en : Bool) : Byte := actionBits ||| (BitVec.ofBool en).setWidth 8

/-- `action_bits` of `START` and `RSTART` (R117, R118). -/
def startBits : Byte := 0x82
/-- `action_bits` of `SEND`. -/
def sendBits : Byte := 0x80
/-- `action_bits` of `RECV_ACK`. -/
def recvAckBits : Byte := 0x98
/-- `action_bits` of `RECV_NACK`. -/
def recvNackBits : Byte := 0x88
/-- `action_bits` of `STOP`. -/
def stopBits : Byte := 0x84
/-- The `ENABLE` word (R119). -/
def enableWord : Byte := 0x01

/-- The count operand `CNT`: `ARG` read as an unsigned number (R123). -/
def State.cnt (s : State) : Nat := s.arg.toNat

/-- Read cell `i` of the buffer; an unlisted cell has no value (20_memory.md R71; 10_state.md R35). -/
def Memory.read : Memory → Nat → Option Byte
  | [], _ => none
  | (j, v) :: m, i => if i = j then some v else Memory.read m i

/-- Write cell `i` of the buffer (R71), keeping the indices rising. -/
def Memory.write : Memory → Nat → Byte → Memory
  | [], i, v => [(i, v)]
  | (j, w) :: m, i, v =>
    if i < j then (i, v) :: (j, w) :: m
    else if i = j then (i, v) :: m
    else (j, w) :: Memory.write m i v

/-- The canonical form: strictly rising indices, all of them cells of the buffer, 0 to 255 (R71). -/
def Memory.wf (m : Memory) : Bool :=
  decide (m.Pairwise fun c d => c.1 < d.1) && m.all fun c => decide (c.1 < 256)

/-- `sendbyte()` (41_phase_sequencer.md R159): the byte a send phase loads, by `PH` and `OPC`; `BUF[IDX]` of a
cell without a value is the fault `BufUninit` (U7). -/
def sendByte (s : State) : Except Fault Byte :=
  match s.ph, s.opc with
  | .addrW, _ => .ok (addressByte s.dev false)
  | .regAddr, _ => .ok s.reg
  | .dataW, .writeByte => .ok s.arg
  | .dataW, .writeBytes =>
    match Memory.read s.buf s.idx.toNat with
    | some b => .ok b
    | none => .error .bufUninit
  | .addrR, _ => .ok (addressByte s.dev true)
  | _, _ => .error .unreachablePair

end Sys2Proof.Machine
end

