-- ==== Sys2Proof/Machine/Flags.lean ====
section
/-! DEFINITION. The flags and the host-visible register words: 10_state.md R34 and R37 to R41, R49. -/

namespace Sys2Proof.Machine

/-- `BUSY = (PH != IDLE)` (R34). -/
def busy (s : State) : Bool := s.ph != .idle

/-- `DONE`, bit 0 of a `STAT` read; bits 7:1 are ignored (R49). -/
def doneFlag (stat : Byte) : Bool := stat.getLsbD 0

/-- `GO`, bit 7 of a control word (R48). -/
def goFlag (ctrl : Byte) : Bool := ctrl.getLsbD 7

/-- `EN`, bit 0 of a control word (R48). -/
def enFlag (ctrl : Byte) : Bool := ctrl.getLsbD 0

/-- A byte in bits 7:0 of a host register, bits 31:8 zero (20_memory.md R76). -/
def byteWord (b : Byte) : Word := b.setWidth 32

/-- The `CMD` read-back `OPC ‖ 0 ‖ DEV ‖ REG ‖ 0000 ‖ ARG` (R37). -/
def cmdReg (s : State) : Word := s.opc.code ++ 0#1 ++ s.dev ++ s.reg ++ 0#4 ++ s.arg

/-- The `STATUS` register (R38): `EN[6] ‖ OWN[5] ‖ CMDERR[4] ‖ RESULT[3:2] ‖ VALID[1] ‖ BUSY[0]`, bits 31:7 zero. -/
def statusReg (s : State) : Word :=
  0#25 ++ BitVec.ofBool s.en ++ BitVec.ofBool s.own ++ BitVec.ofBool s.cmderr ++ s.result.code ++
    BitVec.ofBool s.valid ++ BitVec.ofBool (busy s)

/-- The `RDATA` register (R39). -/
def rdataReg (s : State) : Word := byteWord s.rdata

/-- The `SEQ` register (R40): `IDX[15:8] ‖ 00 ‖ MS[5:4] ‖ PH[3:0]`, bits 31:16 zero. -/
def seqReg (s : State) : Word := 0#16 ++ s.idx ++ 0#2 ++ s.ms.code ++ s.ph.code

/-- The `DIVR` register (R41). -/
def divrReg (s : State) : Word := byteWord s.div

end Sys2Proof.Machine
end

