-- ==== Sys2Proof/Machine/Ops.lean ====
section
/-! DEFINITION. The shared operations: the facade port (20_memory.md R73, R80), `enter` and `finish`, the one
exception `Timeout` and the return from it (60_exceptions.md R236, R238), acceptance and refusal of a command
(42_transactions.md R190 to R193), and the four micro-steps (41_phase_sequencer.md R153 to R158). -/

namespace Sys2Proof.Machine

/-- What an instruction or a step answers. -/
abbrev Result := Host.Outcome State Fault Refusal

/-- What a `FacWrite` leaves in the facade's registers (20_memory.md R80): the written bits are stored, and a
`CTRL` write with `GO = 1` clears `DONE` as well. The `EN` bit is among the bits stored; what it turns on or off is
the platform's (R95; Platform.lean). `STAT` itself is never written (R73). -/
def Facade.store (f : Facade) (r : FacReg) (v : Byte) : Facade :=
  match r with
  | .ctrl => { f with ctrl := v, stat := if goFlag v then f.stat &&& 0xFE#8 else f.stat }
  | .stat => f
  | .data => { f with data := v }
  | .baud => { f with baud := v }

/-- What a `FacRead` shows of the facade's registers: the register read holds the value it gave. -/
def Facade.observe (f : Facade) (r : FacReg) (v : Byte) : Facade :=
  match r with
  | .ctrl => { f with ctrl := v }
  | .stat => { f with stat := v }
  | .data => { f with data := v }
  | .baud => { f with baud := v }

/-- `FacWrite(r, v)` (00_scope.md R11). -/
def facWrite (r : FacReg) (v : Byte) (s : State) : State :=
  { s with facade := s.facade.store r v, history := .write r v :: s.history }

/-- The byte the facade answers to the next `FacRead`: any value (U4), the next one the state lists, or past
the list's end a free value. -/
def facAnswer (s : State) : Byte :=
  match s.answers with
  | v :: _ => v
  | [] => Config.facadeAnswer s.freeNext

/-- `FacRead(r)` (R11), which gives `facAnswer s`: the answer is used up and the access is recorded. -/
def facRead (r : FacReg) (s : State) : State :=
  { s with
    answers := s.answers.tail
    freeNext := if s.answers.isEmpty then s.freeNext + 1 else s.freeNext
    facade := s.facade.observe r (facAnswer s)
    history := .read r (facAnswer s) :: s.history }

/-- The first micro-step of a phase (41_phase_sequencer.md R152). -/
def firstMicroStep (p : Phase) : MicroStep := if p.isSend || p == .init then .load else .issue

/-- `enter(S)` (R152). -/
def enter (p : Phase) (s : State) : State := { s with ph := p, ms := firstMicroStep p }

/-- `finish(c)` (42_transactions.md R209). -/
def finish (c : Status) (s : State) : State :=
  { s with ph := .idle, ms := .load, own := false, result := c, valid := true }

/-- `raise Timeout`, the abort entry (60_exceptions.md R236): taking the machine's one exception. "Nothing is saved". -/
def raiseTimeout (s : State) : State := enter .aborted s

/-- The return from the abort path (60_exceptions.md R238). -/
def returnFromTimeout (s : State) : State := finish .timeout s

/-- What the expiry of the budget does (41_phase_sequencer.md R156): the abort entry, but inside `ABORTED` the
timeout is absorbed (60_exceptions.md R239). -/
def expire (s : State) : State := if s.ph = .aborted then returnFromTimeout s else raiseTimeout s

/-- Acceptance of a command (42_transactions.md R191). -/
def acceptCommand (opc : Opcode) (dev : DevAddr) (reg arg : Byte) (s : State) : State :=
  enter (if opc = .init then .init else .start)
    { s with opc := opc, dev := dev, reg := reg, arg := arg, idx := 0, valid := false, cmderr := false }

/-- Refusal of a reserved encoding (R192). -/
def refuseCommand (s : State) : State := { s with cmderr := true }

/-- A legal command written to `CMD` (R190): accepted while idle, the model's fault while busy (R193). -/
def issueCommand (opc : Opcode) (dev : DevAddr) (reg arg : Byte) (s : State) : Result :=
  if busy s then .fault .hostReentry else .next (acceptCommand opc dev reg arg s)

/-- The first micro-step of `INIT` (40_init.md R141). -/
def configureDivisor (s : State) : State :=
  { facWrite .baud s.arg s with div := s.arg, ms := .issue }

/-- `LOAD` (41_phase_sequencer.md R153). -/
def loadByte (s : State) : Result :=
  match sendByte s with
  | .ok b => .next { facWrite .data b s with ms := .issue }
  | .error f => .fault f

/-- `ISSUE` of the control word `actionBits | e` (R154). -/
def issueWord (actionBits : Byte) (e : Bool) (s : State) : State :=
  { facWrite .ctrl (controlWord actionBits e) s with
    own := if s.ph = .start then true else s.own
    tcnt := s.params.tmo
    ms := .poll }

/-- `phase_done()` (42_transactions.md R195), row by row. -/
def phaseDone (s : State) : Result :=
  match s.ph, s.opc with
  | .start, _ => .next (enter .addrW s)
  | .addrW, _ => .next (enter .regAddr s)
  | .regAddr, .writeByte => .next (enter .dataW s)
  | .regAddr, .writeBytes => .next (if s.cnt = 0 then enter .stop s else enter .dataW s)
  | .regAddr, .readByte => .next (enter .rstart s)
  | .regAddr, .readBytes =>
    .next (if s.cnt = 0 ∧ s.params.rd0Full = false then enter .stop s else enter .rstart s)
  | .dataW, .writeByte => .next (enter .stop { s with idx := s.idx + 1 })
  | .dataW, .writeBytes =>
    if s.idx.toNat + 1 = s.cnt then .next (enter .stop { s with idx := s.idx + 1 })
    else if s.idx.toNat + 1 < s.cnt then .next (enter .dataW { s with idx := s.idx + 1 })
    else .fault .unreachablePair
  | .rstart, .readByte => .next (enter .addrR s)
  | .rstart, .readBytes => .next (enter .addrR s)
  | .addrR, .readByte => .next (enter .dataRNack s)
  | .addrR, .readBytes =>
    .next (if s.cnt = 0 then enter .stop s else if s.cnt = 1 then enter .dataRNack s else enter .dataRAck s)
  | .stop, _ => .next (finish .success s)
  | .aborted, _ => .next (returnFromTimeout s)
  | _, _ => .fault .unreachablePair

/-- What a `POLL` that saw `DONE = 1` does (R156): a receive phase goes on to `FETCH`, any other phase is done. -/
def pollDone (s : State) : Result :=
  if s.ph.isReceive then .next { s with ms := .fetch } else phaseDone s

/-- What a `POLL` that saw `DONE = 0` does (R156): count down, and expire at 0 (log 10). -/
def pollNotDone (s : State) : State :=
  if s.tcnt - 1 = 0 then expire { s with tcnt := 0 } else { s with tcnt := s.tcnt - 1 }

/-- `POLL` (R156): the flag is tested before the counter (60_exceptions.md R240). -/
def poll (s : State) : Result :=
  if doneFlag (facAnswer s) then pollDone (facRead .stat s) else .next (pollNotDone (facRead .stat s))

/-- Where `FETCH` puts the received byte (R158). -/
def storeReceived (d : Byte) (s : State) : State :=
  if s.opc = .readByte then { s with rdata := d } else { s with buf := Memory.write s.buf s.idx.toNat d }

/-- The phase after a receive phase that has completed its `n`-th byte (R158). -/
def afterReceive (n : Byte) (s : State) : Phase :=
  if s.ph = .dataRAck then if n.toNat + 1 = s.cnt then .dataRNack else .dataRAck else .stop

/-- `FETCH` (R158; log 12). -/
def fetch (s : State) : State :=
  enter (afterReceive (s.idx + 1) s)
    { storeReceived (facAnswer s) (facRead .data s) with idx := s.idx + 1 }

/-- The micro-steps of a condition phase, `ISSUE POLL+` (R151). -/
def conditionStep (actionBits : Byte) (e : Bool) (s : State) : Result :=
  match s.ms with
  | .issue => .next (issueWord actionBits e s)
  | .poll => poll s
  | .load | .fetch => .fault .noMicroStep

/-- The micro-steps of a send phase, `LOAD ISSUE POLL+` (R151). -/
def sendStep (actionBits : Byte) (e : Bool) (s : State) : Result :=
  match s.ms with
  | .load => loadByte s
  | .issue => .next (issueWord actionBits e s)
  | .poll => poll s
  | .fetch => .fault .noMicroStep

/-- The micro-steps of a receive phase, `ISSUE POLL+ FETCH` (R151). -/
def receiveStep (actionBits : Byte) (e : Bool) (s : State) : Result :=
  match s.ms with
  | .issue => .next (issueWord actionBits e s)
  | .poll => poll s
  | .fetch => .next (fetch s)
  | .load => .fault .noMicroStep

end Sys2Proof.Machine
end

