-- ==== Sys2Proof/Machine/Initialisation.lean ====
section
/-! DEFINITION. Bus initialisation: the command `INIT` and the control word `ENABLE` (40_init.md R140 to R145). -/

namespace Sys2Proof.Machine

/-- `INIT div` written to `CMD` (R140): accepted while idle. Its two micro-steps follow: `configureDivisor`
(R141), which writes no control word, and `execEnable` (R142). -/
def execInit (div : Byte) (s : State) : Result := issueCommand .init 0 0 div s

/-- `ENABLE`, the second micro-step of `INIT` (R142): the control word 0x01, `EN <- 1`, `finish(Success)`. -/
def execEnable (s : State) : Result :=
  if s.ph = .init then
    match s.ms with
    | .issue => .next (finish .success { facWrite .ctrl enableWord s with en := true })
    | .load | .poll | .fetch => .fault .noMicroStep
  else .fault .wrongPhase

end Sys2Proof.Machine
end

