-- ==== Sys2Proof/Machine/Phases.lean ====
section
/-! DEFINITION. The six phase actions (41_phase_sequencer.md R160 to R166). The meaning of an action is the
micro-step of its phase that `MS` names; its operand is the `EN` bit of the control word (log 14). An action has a meaning
in the phase states that issue it (30_encoding.md R117) and in no other (log 9). -/

namespace Sys2Proof.Machine

/-- `START` (R160), issued in phase state `START`. -/
def execStart (e : Bool) (s : State) : Result :=
  if s.ph = .start then conditionStep startBits e s else .fault .wrongPhase

/-- `RSTART` (R161), issued in phase state `RSTART`; the same word as `START`, with the bus already owned. -/
def execRstart (e : Bool) (s : State) : Result :=
  if s.ph = .rstart then conditionStep startBits e s else .fault .wrongPhase

/-- `SEND` (R162), issued in the four send phase states. -/
def execSend (e : Bool) (s : State) : Result :=
  if s.ph.isSend then sendStep sendBits e s else .fault .wrongPhase

/-- `RECV_ACK` (R163), issued in phase state `DATA_R_ACK`. -/
def execRecvAck (e : Bool) (s : State) : Result :=
  if s.ph = .dataRAck then receiveStep recvAckBits e s else .fault .wrongPhase

/-- `RECV_NACK` (R164), issued in phase state `DATA_R_NACK`. -/
def execRecvNack (e : Bool) (s : State) : Result :=
  if s.ph = .dataRNack then receiveStep recvNackBits e s else .fault .wrongPhase

/-- `STOP` (R165), issued in phase state `STOP`, and the best-effort stop (R166), issued in `ABORTED`: the same
micro-steps, told apart by `phaseDone` and `expire`. -/
def execStop (e : Bool) (s : State) : Result :=
  if s.ph = .stop ∨ s.ph = .aborted then conditionStep stopBits e s else .fault .wrongPhase

end Sys2Proof.Machine
end

