-- ==== Sys2Proof/Machine/Transactions.lean ====
section
/-! DEFINITION. The four transaction commands (42_transactions.md R196 to R199). Writing the command word latches
it and enters `START` (R191); the phases that follow are the phase actions of Phases.lean, in the order of the
table R195 (`phaseDone`) and R158 (`fetch`). -/

namespace Sys2Proof.Machine

/-- `WRITE_BYTE dev, reg, data` (R196). -/
def execWriteByte (dev : DevAddr) (reg data : Byte) (s : State) : Result := issueCommand .writeByte dev reg data s

/-- `WRITE_BYTES dev, reg, count` (R197). -/
def execWriteBytes (dev : DevAddr) (reg count : Byte) (s : State) : Result :=
  issueCommand .writeBytes dev reg count s

/-- `READ_BYTE dev, reg` (R198); its `ARG` field is zero (30_encoding.md R113). -/
def execReadByte (dev : DevAddr) (reg : Byte) (s : State) : Result := issueCommand .readByte dev reg 0 s

/-- `READ_BYTES dev, reg, count` (R199). -/
def execReadBytes (dev : DevAddr) (reg count : Byte) (s : State) : Result :=
  issueCommand .readBytes dev reg count s

end Sys2Proof.Machine
end

