-- ==== Sys2Proof/Machine/Dispatch.lean ====
section
/-! DEFINITION. `exec`: one arm per instruction. -/

namespace Sys2Proof.Machine

def exec (i : Instr) (s : State) : Host.Outcome State Fault Refusal :=
  match i with
  | .init div => Sys2Proof.Machine.execInit div s
  | .writeByte dev reg data => Sys2Proof.Machine.execWriteByte dev reg data s
  | .writeBytes dev reg count => Sys2Proof.Machine.execWriteBytes dev reg count s
  | .readByte dev reg => Sys2Proof.Machine.execReadByte dev reg s
  | .readBytes dev reg count => Sys2Proof.Machine.execReadBytes dev reg count s
  | .start en => Sys2Proof.Machine.execStart en s
  | .rstart en => Sys2Proof.Machine.execRstart en s
  | .send en => Sys2Proof.Machine.execSend en s
  | .recvAck en => Sys2Proof.Machine.execRecvAck en s
  | .recvNack en => Sys2Proof.Machine.execRecvNack en s
  | .stop en => Sys2Proof.Machine.execStop en s
  | .enable => Sys2Proof.Machine.execEnable s

end Sys2Proof.Machine
end

