-- ==== Sys2Proof/Machine/HostPort.lean ====
section
/-! DEFINITION. The host register port (10_state.md R36 to R45), the issue of a command (42_transactions.md R190 to
R193), and the reset input (70_reset_and_hazards.md R260). -/

namespace Sys2Proof.Machine

/-- The registers of the host map (R36). -/
inductive HostReg where
  | cmd | status | rdata | seq | divr
  /-- `BUFW[i]`. -/
  | bufw (i : Byte)
  /-- An index the table of R36 leaves unmapped. -/
  | unmapped
  deriving DecidableEq, Repr

/-- The host map (R36): which register an index selects. -/
def hostReg (a : HostIndex) : HostReg :=
  if a = 0x000#10 then .cmd
  else if a = 0x001#10 then .status
  else if a = 0x002#10 then .rdata
  else if a = 0x003#10 then .seq
  else if a = 0x004#10 then .divr
  else if a.extractLsb' 8 2 = 1#2 then .bufw (a.extractLsb' 0 8)
  else .unmapped

/-- The byte a host read of `BUFW[i]` gives: the cell's value, and of a cell without one any value (U7). -/
def bufwByte (i : Byte) (s : State) : Byte :=
  match Memory.read s.buf i.toNat with
  | some b => b
  | none => Config.unwrittenBufByte s.freeNext

/-- A host read of `BUFW[i]` while idle (R42): nothing changes but `h_rdata` and, where the cell has no value, the
count of free values. -/
def readBufw (i : Byte) (s : State) : State :=
  { s with
    hrdata := byteWord (bufwByte i s)
    freeNext := if Memory.read s.buf i.toNat = none then s.freeNext + 1 else s.freeNext }

/-- A host read (R36 to R43). -/
def hostRead (a : HostIndex) (s : State) : Result :=
  match hostReg a with
  | .cmd => .next { s with hrdata := cmdReg s }
  | .status => .next { s with hrdata := statusReg s }
  | .rdata => .next { s with hrdata := rdataReg s }
  | .seq => .next { s with hrdata := seqReg s }
  | .divr => .next { s with hrdata := divrReg s }
  | .bufw i => if busy s then .fault .hostReentry else .next (readBufw i s)
  | .unmapped => .next { s with hrdata := 0 }

/-- A write of `CMD` (42_transactions.md R190): `BUSY` is tested first, then the encoding (60_exceptions.md R241). -/
def writeCmd (w : Word) (s : State) : Result :=
  if busy s then .fault .hostReentry
  else
    match decodeCommand w with
    | .ok i => exec i s
    | .error _ => .next (refuseCommand s)

/-- A host write (R36 to R43). -/
def hostWrite (a : HostIndex) (w : Word) (s : State) : Result :=
  match hostReg a with
  | .cmd => writeCmd w s
  | .bufw i =>
    if busy s then .fault .hostReentry
    else .next { s with buf := Memory.write s.buf i.toNat (w.extractLsb' 0 8) }
  | .status | .rdata | .seq | .divr | .unmapped => .next s

/-- One host access. -/
def hostAccess (a : HostAccess) (s : State) : Result :=
  match a with
  | .read a => hostRead a s
  | .write a w => hostWrite a w s

/-- One cycle with `rst = 1` (R260): every element to its reset value, `BUF` without values again, no facade
access, a write dropped and a read answered with 0; the facade, the parameters and the model's own fields stay
(log 13). -/
def resetCycle (a : Option HostAccess) (s : State) : State :=
  { State.reset with
    facade := s.facade
    hrdata := match a with
      | some (.read _) => 0
      | some (.write _ _) | none => s.hrdata
    params := s.params
    history := s.history
    inputs := s.inputs
    answers := s.answers
    freeNext := s.freeNext }

/-- `s` with a command word placed as the host's next access, a write of `CMD`. -/
def placeCommand (w : Word) (s : State) : State := { s with inputs := .host (.write 0x000#10 w) :: s.inputs }

end Sys2Proof.Machine
end

