-- ==== Sys2Proof/Machine/Sequencer.lean ====
section
/-! DEFINITION. The sequencer's turn (00_scope.md R13; 41_phase_sequencer.md section 2; 40_init.md R141, R142), and
how a phase action's key is placed where the sequencer takes its next instruction from. -/

namespace Sys2Proof.Machine

/-- The control word's instruction in phase state `p` with `EN = e`: the "issued in phase state" column of
30_encoding.md R117, and `ENABLE` in `INIT` (R119). `IDLE` has none. -/
def phaseInstr? (p : Phase) (e : Bool) : Option Instr :=
  match p with
  | .idle => none
  | .start => some (.start e)
  | .addrW => some (.send e)
  | .regAddr => some (.send e)
  | .dataW => some (.send e)
  | .rstart => some (.rstart e)
  | .addrR => some (.send e)
  | .dataRAck => some (.recvAck e)
  | .dataRNack => some (.recvNack e)
  | .stop => some (.stop e)
  | .aborted => some (.stop e)
  | .init => some .enable

/-- One turn of the sequencer: none while `IDLE` (R13; 60_exceptions.md R250); in `INIT` the two micro-steps of
40_init.md; otherwise the micro-step of the phase's action (log 16). -/
def sequencerStep (s : State) : Result :=
  if s.ph = .init ∧ s.ms = .load then .next (configureDivisor s)
  else
    match phaseInstr? s.ph s.en with
    | none => .next s
    | some i => exec i s

/-- The phase states that issue an action (R117), the first of them the one a placed key is put in (log 5). A
command is issued by no phase. -/
def issuingPhases : Instr → List Phase
  | .start _ => [.start]
  | .rstart _ => [.rstart]
  | .send _ => [.addrW, .regAddr, .dataW, .addrR]
  | .recvAck _ => [.dataRAck]
  | .recvNack _ => [.dataRNack]
  | .stop _ => [.stop, .aborted]
  | .enable => [.init]
  | .init _ | .writeByte _ _ _ | .writeBytes _ _ _ | .readByte _ _ | .readBytes _ _ _ => []

/-- `s` with a phase action's key placed where the sequencer takes its next instruction from: a phase state that
issues it (the present one, if it does), the `ISSUE` micro-step, `OWN` and `EN` as the key has them, and the turn
the sequencer's. The `ENABLE` word's bit 0 is fixed, so `EN` stays. -/
def placeKey (i : Instr) (own : Bool) (en : Bool) (s : State) : State :=
  { s with
    ph := if s.ph ∈ issuingPhases i then s.ph else (issuingPhases i).headD s.ph
    ms := .issue
    own := own
    en := if i = .enable then s.en else en
    inputs := .tick :: s.inputs }

end Sys2Proof.Machine
end

