-- ==== Sys2Proof/Machine/Step.lean ====
section
/-! DEFINITION. One step: the agent that the state's input list names acts once (00_scope.md R12, R13; 10_state.md R45). -/

namespace Sys2Proof.Machine

/-- One atomic action. The head of `inputs` says whose it is; with no input left the turn is the sequencer's. -/
def step (s : State) : Host.Outcome State Fault Refusal :=
  match s.inputs with
  | [] => sequencerStep s
  | .tick :: rest => sequencerStep { s with inputs := rest }
  | .host a :: rest => hostAccess a { s with inputs := rest }
  | .rst a :: rest => .next (resetCycle a { s with inputs := rest })

/-- `s` with a table word placed where `step` takes its next instruction from: a command word as the host's
write of `CMD`, a key as the sequencer's `ISSUE` (log 5). A word that is neither leaves `s` as it is. -/
def State.withFetchWord (s : State) (nbits w : Nat) : State :=
  match tableWord nbits w with
  | .error _ => s
  | .ok (.command w) => placeCommand w s
  | .ok (.key k) =>
    match decodeKey k with
    | .ok i => placeKey i (k.getLsbD 8) (k.getLsbD 0) s
    | .error _ => s

end Sys2Proof.Machine
end

