-- ==== Sys2Proof/Machine/Platform.lean ====
section
/-! DEFINITION. The far side of the facade port, as a PREMISE of claims and no part of the machine: the facade
contract (20_memory.md R91 to R96) and the register-pointer peripheral (R97, from general knowledge in the spec
itself), followed along the event history. The CORE checks none of it (U4); no step reads it (log 15). -/

namespace Sys2Proof.Machine

/-- Where the peripheral stands in the transaction on the wire (R97). -/
inductive BusMode where
  /-- No start condition since the last stop. -/
  | released
  /-- A start has been generated; the next byte is an address byte. -/
  | addressing
  /-- Addressed for writing; the next byte is the register pointer. -/
  | pointer
  /-- Addressed for writing; further bytes are stored. -/
  | storing
  /-- Addressed for reading. -/
  | supplying
  /-- Another device is addressed. -/
  | ignoring
  /-- Not known: a phase of which the spec gives no effect may have been on the wire (log 15, log 17). -/
  | unknown
  deriving DecidableEq, Repr

/-- What the platform makes of the last `GO` word. -/
inductive Launch where
  /-- None has been written. -/
  | notYet
  /-- The phase of control word `word` is in flight; `byte` was in `DATA` when it was launched (R91, R94). -/
  | inFlight (word byte : Byte)
  /-- The last phase has completed (R92). -/
  | completed
  /-- The phase was asked of a disabled controller, or the controller was disabled in the middle of it: until the next `GO`
  word with `EN = 1` every answer is allowed (40_init.md R145; 93_implementation_defined.md U3; log 17). -/
  | unspecified
  deriving DecidableEq, Repr

/-- The platform behind the facade: whether the bus controller is on (R95), what is in `DATA` to be sent (R94), the last
phase launched (R91), the byte a completed receive phase has left (R93), and the peripheral (R97), of which `none` says
that a register or the register pointer is not known. -/
structure Platform where
  address  : DevAddr
  regs     : Byte → Option Byte
  pointer  : Option Byte
  mode     : BusMode
  enabled  : Bool
  toSend   : Byte
  launch   : Launch
  received : Option Byte

/-- A phase of unknown effect: nothing is known of the peripheral but its address. -/
def Platform.forget (p : Platform) : Platform := { p with regs := fun _ => none, pointer := none, mode := .unknown }

/-- The peripheral stores a byte at its pointer (R97); at a pointer not known, any register may have changed. -/
def Platform.storeByte (p : Platform) (b : Byte) : Byte → Option Byte :=
  match p.pointer with
  | some k => fun r => if r = k then some b else p.regs r
  | none => fun _ => none

/-- The peripheral takes a sent byte (R97). Where R97 says nothing of a byte (no start before it, another device
addressed, or this one addressed for reading) it is ignored: the model's choice (log 19). -/
def Platform.takeByte (p : Platform) (b : Byte) : Platform :=
  match p.mode with
  | .addressing =>
    { p with mode :=
        if b = addressByte p.address false then .pointer
        else if b = addressByte p.address true then .supplying else .ignoring }
  | .pointer => { p with pointer := some b, mode := .storing }
  | .storing => { p with regs := p.storeByte b, pointer := p.pointer.map (· + 1) }
  | .unknown => p.forget
  | .released | .supplying | .ignoring => p

/-- A receive phase completes (R93, R97): a peripheral addressed for reading supplies the byte at its pointer. If none
supplies a byte no answer is bound (log 19). -/
def Platform.supplyByte (p : Platform) : Platform :=
  match p.mode with
  | .supplying => { p with received := p.pointer.bind p.regs, pointer := p.pointer.map (· + 1) }
  | .unknown => p.forget
  | .released | .addressing | .pointer | .storing | .ignoring => p

/-- The phase that control word `w` launched with byte `b` in `DATA` completes (R92): start, stop, one byte received, or
one byte sent. For a word the CORE never writes (30_encoding.md R120) the order `STA`, `STO`, `RD` and the bits ignored are
the model's choice (log 18). The register pointer is kept over a stop as over a repeated start, of which alone R97
speaks: the model's choice (log 19). -/
def Platform.complete (p : Platform) (w b : Byte) : Platform :=
  if w.getLsbD 1 then { p with mode := .addressing }
  else if w.getLsbD 2 then { p with mode := .released }
  else if w.getLsbD 3 then p.supplyByte
  else p.takeByte b

/-- The end of the last phase as a new `GO` word finds it: one still in flight is cut short, and what it has done is not
known (log 15); of an unspecified one it never is (log 17). -/
def Platform.cutShort (p : Platform) : Platform :=
  match p.launch with
  | .notYet | .completed => p
  | .inFlight _ _ | .unspecified => p.forget

/-- A `CTRL` write with `GO = 1` begins the phase of word `w` with the byte in `DATA`, whatever came before (R91, R94).
What a disabled controller does with it is the platform's (40_init.md R145; 93_implementation_defined.md U3; log 17). -/
def Platform.go (p : Platform) (w : Byte) : Platform :=
  if p.enabled then { p.cutShort with launch := .inFlight w p.toSend, received := none }
  else { p.forget with launch := .unspecified, received := none }

/-- A `CTRL` write with `GO = 0` begins no phase and leaves `DONE` as it was (R95). One that turns the controller off
under a phase in flight leaves that phase's fate open (log 17). -/
def Platform.noGo (p : Platform) : Platform :=
  match p.launch with
  | .inFlight _ _ => if p.enabled then p else { p.forget with launch := .unspecified }
  | .notYet | .completed | .unspecified => p

/-- A `CTRL` write (R91, R95): bit 0 turns the bus controller on or off first (10_state.md R48), in a `GO` word as in any
other (log 17). -/
def Platform.control (p : Platform) (w : Byte) : Platform :=
  let q := { p with enabled := enFlag w }
  if goFlag w then q.go w else q.noGo

/-- What one facade access does to the platform (R91 to R95). -/
def Platform.after (p : Platform) : FacAccess → Platform
  | .write .ctrl w => p.control w
  | .write .data b => { p with toSend := b, received := none }
  | .write .baud _ | .write .stat _ => p
  | .read .stat v =>
    match p.launch with
    | .inFlight w b => if doneFlag v then { p.complete w b with launch := .completed } else p
    | .notYet | .completed | .unspecified => p
  | .read .ctrl _ | .read .data _ | .read .baud _ => p

/-- A `GO` word with `EN = 1`: an access that begins a phase (R91). -/
def FacAccess.begins : FacAccess → Bool
  | .write .ctrl w => goFlag w && enFlag w
  | .write .stat _ | .write .data _ | .write .baud _ | .read _ _ => false

/-- Whether an answer keeps the contract: once the phase has completed, `STAT` shows `DONE` (R92), and `DATA` shows the
byte a receive phase has received (R93). Before the first phase, and where the phase is unspecified, any answer does. -/
def Platform.allows (p : Platform) (a : FacAccess) : Bool :=
  p.launch == .unspecified ||
    match a with
    | .read .stat v => p.launch != .completed || doneFlag v
    | .read .data v => match p.received with
      | some b => v == b
      | none => true
    | .read .ctrl _ | .read .baud _ | .write _ _ => true

/-- The platform after a run of accesses, oldest first. -/
def Platform.afterAll (p : Platform) (h : List FacAccess) : Platform := h.foldl Platform.after p

/-- A run of accesses, oldest first, in which every answer keeps the contract. -/
def Platform.conforms : Platform → List FacAccess → Bool
  | _, [] => true
  | p, a :: h => p.allows a && (p.after a).conforms h

end Sys2Proof.Machine
end

