-- ==== Sys2Proof/Safety.lean ====
section
/-! DEFINITION. What claims are stated in: runs of several steps, the invariant behind 10_state.md R52, the clauses of
R52 themselves, the states a run reaches, the projections of the event history, and the lengths of 42_transactions.md
R210 and 70_reset_and_hazards.md R274. -/

namespace Sys2Proof.Machine

/-- `n` steps, stopping at the first fault or refusal. -/
def stepN : Nat → State → Result
  | 0, s => .next s
  | n + 1, s =>
    match step s with
    | .next t => stepN n t
    | .fault f => .fault f
    | .refused r => .refused r

/-! ### The five commands -/

/-- The opcode of a transaction command. -/
def Opcode.isTransaction : Opcode → Bool
  | .writeByte | .writeBytes | .readByte | .readBytes => true
  | .none | .init => false

/-- The opcode of a read command. -/
def Opcode.isRead : Opcode → Bool
  | .readByte | .readBytes => true
  | .none | .init | .writeByte | .writeBytes => false

/-- A command of format C: its opcode and its `DEV`, `REG` and `ARG` fields (30_encoding.md R113). -/
def commandFields? : Instr → Option (Opcode × DevAddr × Byte × Byte)
  | .init div => some (.init, 0, 0, div)
  | .writeByte dev reg data => some (.writeByte, dev, reg, data)
  | .writeBytes dev reg count => some (.writeBytes, dev, reg, count)
  | .readByte dev reg => some (.readByte, dev, reg, 0)
  | .readBytes dev reg count => some (.readBytes, dev, reg, count)
  | .start _ | .rstart _ | .send _ | .recvAck _ | .recvNack _ | .stop _ | .enable => none

/-- The number of data phases of the latched command (42_transactions.md R202). -/
def dataPhases (s : State) : Nat :=
  match s.opc with
  | .none | .init => 0
  | .writeByte | .readByte => 1
  | .writeBytes | .readBytes => s.cnt

/-- `P`, the number of phases on the latched command's success path (70_reset_and_hazards.md R274). -/
def pathPhases (s : State) : Nat :=
  match s.opc with
  | .none | .init => 0
  | .writeByte => 5
  | .writeBytes => 4 + s.cnt
  | .readByte => 7
  | .readBytes => if s.cnt = 0 ∧ s.params.rd0Full = false then 4 else 6 + s.cnt

/-- The cells a `WRITE_BYTES` sends have values (R268). -/
def bufFilled (s : State) : Prop :=
  s.opc = .writeBytes → ∀ k, k < s.cnt → (Memory.read s.buf k).isSome

/-- `action_bits(PH)` of `ISSUE` (41_phase_sequencer.md R154); `IDLE` and `INIT` have none. -/
def actionBits? : Phase → Option Byte
  | .start | .rstart => some 0x82
  | .addrW | .regAddr | .dataW | .addrR => some 0x80
  | .dataRAck => some 0x98
  | .dataRNack => some 0x88
  | .stop | .aborted => some 0x84
  | .idle | .init => none

/-- A bus phase: any phase state but `IDLE` and `INIT`, which is not a bus phase (R151). -/
def Phase.isBus (p : Phase) : Bool := p != .idle && p != .init

/-! ### The invariant -/

/-- The micro-steps of each phase state (41_phase_sequencer.md R151; 40_init.md R141, R142; 10_state.md R27). -/
def legalMicroStep (p : Phase) (m : MicroStep) : Bool :=
  match p, m with
  | .idle, .load => true
  | .init, .load | .init, .issue => true
  | .start, .issue | .start, .poll => true
  | .rstart, .issue | .rstart, .poll => true
  | .stop, .issue | .stop, .poll => true
  | .aborted, .issue | .aborted, .poll => true
  | .addrW, .load | .addrW, .issue | .addrW, .poll => true
  | .regAddr, .load | .regAddr, .issue | .regAddr, .poll => true
  | .dataW, .load | .dataW, .issue | .dataW, .poll => true
  | .addrR, .load | .addrR, .issue | .addrR, .poll => true
  | .dataRAck, .issue | .dataRAck, .poll | .dataRAck, .fetch => true
  | .dataRNack, .issue | .dataRNack, .poll | .dataRNack, .fetch => true
  | _, _ => false

/-- Which commands a phase state occurs in, and how many data phases have completed there (42_transactions.md
R195 to R202). -/
def legalPosition (s : State) : Prop :=
  match s.ph with
  | .idle => True
  | .init => s.opc = .init
  | .start | .addrW | .regAddr => s.opc.isTransaction = true ∧ s.idx = 0
  | .dataW => (s.opc = .writeByte ∨ s.opc = .writeBytes) ∧ s.idx.toNat < dataPhases s
  | .rstart | .addrR => s.opc.isRead = true ∧ s.idx = 0
  | .dataRAck => s.opc = .readBytes ∧ s.idx.toNat + 1 < dataPhases s
  | .dataRNack => s.opc.isRead = true ∧ s.idx.toNat + 1 = dataPhases s
  | .stop => s.opc.isTransaction = true ∧ s.idx.toNat = dataPhases s
  | .aborted => s.opc.isTransaction = true

/-- Where `OWN` is 1 (10_state.md R30, R52 (h)): from the `ISSUE` of `START` until `finish`. -/
def ownExpected (p : Phase) (m : MicroStep) : Bool :=
  match p with
  | .idle | .init => false
  | .start => m != .issue
  | .addrW | .regAddr | .dataW | .rstart | .addrR | .dataRAck | .dataRNack | .stop | .aborted => true

/-- The word written last to `CTRL`, if any. -/
def lastCtrl : List FacAccess → Option Byte
  | [] => none
  | .write .ctrl w :: _ => some w
  | .write .stat _ :: h | .write .data _ :: h | .write .baud _ :: h | .read _ _ :: h => lastCtrl h

/-- What every reachable state of the CORE satisfies: strong enough to be kept by every step, and to give R52. -/
structure Inv (s : State) : Prop where
  microStep   : legalMicroStep s.ph s.ms = true
  position    : legalPosition s
  ownFlag     : s.own = ownExpected s.ph s.ms
  idxBound    : s.idx.toNat ≤ dataPhases s
  budget      : s.tcnt ≤ s.params.tmo
  polling     : s.ms = .poll → 1 ≤ s.tcnt
  noError     : s.result ≠ .error
  validIdle   : s.valid = true → s.ph = .idle
  noneClear   : s.opc = .none → s.dev = 0 ∧ s.reg = 0 ∧ s.arg = 0
  initClear   : s.opc = .init → s.dev = 0 ∧ s.reg = 0
  readClear   : s.opc = .readByte → s.arg = 0
  bufCanon    : Memory.wf s.buf = true
  stopWritten : s.ph = .stop ∨ s.ph = .aborted → s.ms = .poll →
    lastCtrl s.history = some (controlWord stopBits s.en)

/-- 10_state.md R52, its eight clauses. -/
structure StateRules (s : State) : Prop where
  a : s.ph = .idle → s.own = false ∧ s.ms = .load
  b : s.ph.code.toNat ≤ 11
  c : (1 ≤ s.ph.code.toNat ∧ s.ph.code.toNat ≤ 10 → 2 ≤ s.opc.code.toNat ∧ s.opc.code.toNat ≤ 5) ∧
    (s.ph = .init → s.opc.code = 1)
  d : (s.opc.code = 3 ∨ s.opc.code = 5 →
        s.idx.toNat ≤ s.cnt ∧ (s.ph = .dataW ∨ s.ph = .dataRAck ∨ s.ph = .dataRNack → s.idx.toNat < s.cnt)) ∧
    (s.opc.code = 2 ∨ s.opc.code = 4 → s.idx.toNat ≤ 1)
  e : s.ms = .poll → 1 ≤ s.tcnt ∧ s.tcnt ≤ s.params.tmo
  f : s.result.code = 0 ∨ s.result.code = 2
  g : s.valid = true → s.ph = .idle
  h : s.own = true →
    (s.ph = .start ∧ s.ms ≠ .issue) ∨ s.ph = .addrW ∨ s.ph = .regAddr ∨ s.ph = .dataW ∨ s.ph = .rstart ∨
    s.ph = .addrR ∨ s.ph = .dataRAck ∨ s.ph = .dataRNack ∨ s.ph = .stop ∨ s.ph = .aborted

/-- A CORE just out of its first reset: the reset state, with any parameters, any facade, and any host accesses and
facade answers to come. -/
def justReset (s : State) : Prop :=
  s = { State.reset with params := s.params, facade := s.facade, inputs := s.inputs, answers := s.answers }

/-- The states that runs from reset reach. -/
inductive Reachable : State → Prop where
  | reset {s : State} (h : justReset s) : Reachable s
  | step {s t : State} (h : Reachable s) (hstep : step s = .next t) : Reachable t

/-! ### The event history -/

/-- The control words of a history, newest first. -/
def ctrlWords : List FacAccess → List Byte
  | [] => []
  | .write .ctrl w :: h => w :: ctrlWords h
  | .write .stat _ :: h | .write .data _ :: h | .write .baud _ :: h | .read _ _ :: h => ctrlWords h

/-- The number of polls in a history. -/
def pollCount : List FacAccess → Nat
  | [] => 0
  | .read .stat _ :: h => pollCount h + 1
  | .read .ctrl _ :: h | .read .data _ :: h | .read .baud _ :: h | .write _ _ :: h => pollCount h

/-- The accesses of one condition phase whose first poll sees `DONE`, newest first (41_phase_sequencer.md R151). -/
def conditionTrace (word stat : Byte) : List FacAccess := [.read .stat stat, .write .ctrl word]

/-- The accesses of one send phase whose first poll sees `DONE`, newest first. -/
def sendTrace (byte word stat : Byte) : List FacAccess :=
  [.read .stat stat, .write .ctrl word, .write .data byte]

/-- The accesses of one receive phase whose first poll sees `DONE`, newest first. -/
def receiveTrace (word stat byte : Byte) : List FacAccess :=
  [.read .data byte, .read .stat stat, .write .ctrl word]

/-- The accesses of send phases in a row, given as (byte, stat) pairs in the order sent; newest first. -/
def sendsTrace (word : Byte) : List (Byte × Byte) → List FacAccess
  | [] => []
  | (byte, stat) :: l => sendsTrace word l ++ sendTrace byte word stat

/-- The accesses of the data phases of a `READ_BYTES`, given as (stat, byte) pairs in the order received: ACK after
every byte but the last, NACK after the last (42_transactions.md R200); newest first. -/
def receivesTrace (ackWord nackWord : Byte) : List (Byte × Byte) → List FacAccess
  | [] => []
  | [(stat, byte)] => receiveTrace nackWord stat byte
  | (stat, byte) :: l => receivesTrace ackWord nackWord l ++ receiveTrace ackWord stat byte

/-- The facade's answers to those data phases. -/
def receiveAnswers : List (Byte × Byte) → List Byte
  | [] => []
  | (stat, byte) :: l => stat :: byte :: receiveAnswers l

/-- `STAT` answers that all show `DONE`. -/
def allDone (l : List Byte) : Prop := ∀ v ∈ l, doneFlag v = true

/-- `STAT` answers none of which shows `DONE`. -/
def noneDone (l : List Byte) : Prop := ∀ v ∈ l, doneFlag v = false

/-- The host accesses that the spec forbids while `BUSY = 1` (70_reset_and_hazards.md R266, R267). -/
def forbiddenWhileBusy : HostAccess → Bool
  | .read a => match hostReg a with
    | .bufw _ => true
    | .cmd | .status | .rdata | .seq | .divr | .unmapped => false
  | .write a _ => match hostReg a with
    | .cmd | .bufw _ => true
    | .status | .rdata | .seq | .divr | .unmapped => false

end Sys2Proof.Machine
end

