-- ==== Sys2Proof/WellFormed.lean ====
section
/-! DEFINITION. Operand ranges. "`dev` is 0 to 127, `reg`, `data`, `count`, `div` 0 to 255; a larger operand is
an assembly error, not an encoding" (30_encoding.md R129). The operands of `Instr` carry their widths in their
types, so `Instr.wellFormed` holds of every `Instr`; the check that can fail is the assembler line's. -/

namespace Sys2Proof

/-- A Device Address operand is 0 to 127. -/
def devInRange (n : Nat) : Bool := n < 128

/-- Every other operand is 0 to 255. -/
def byteInRange (n : Nat) : Bool := n < 256

/-- R129: whether an assembler line is free of assembly errors. -/
def AsmLine.wellFormed : AsmLine → Bool
  | .init div => byteInRange div
  | .writeByte dev reg data => devInRange dev && byteInRange reg && byteInRange data
  | .writeBytes dev reg count => devInRange dev && byteInRange reg && byteInRange count
  | .readByte dev reg => devInRange dev && byteInRange reg
  | .readBytes dev reg count => devInRange dev && byteInRange reg && byteInRange count

/-- The instruction a well-formed assembler line stands for; an ill-formed line stands for none (R129). -/
def AsmLine.toInstr? (a : AsmLine) : Option Instr :=
  if a.wellFormed then
    some <| match a with
      | .init div => .init (BitVec.ofNat 8 div)
      | .writeByte dev reg data => .writeByte (BitVec.ofNat 7 dev) (BitVec.ofNat 8 reg) (BitVec.ofNat 8 data)
      | .writeBytes dev reg count => .writeBytes (BitVec.ofNat 7 dev) (BitVec.ofNat 8 reg) (BitVec.ofNat 8 count)
      | .readByte dev reg => .readByte (BitVec.ofNat 7 dev) (BitVec.ofNat 8 reg)
      | .readBytes dev reg count => .readBytes (BitVec.ofNat 7 dev) (BitVec.ofNat 8 reg) (BitVec.ofNat 8 count)
  else none

/-- The assembler line that writes a command; a phase action has no assembler form (R129 lists five). -/
def Instr.toAsm? : Instr → Option AsmLine
  | .init div => some (.init div.toNat)
  | .writeByte dev reg data => some (.writeByte dev.toNat reg.toNat data.toNat)
  | .writeBytes dev reg count => some (.writeBytes dev.toNat reg.toNat count.toNat)
  | .readByte dev reg => some (.readByte dev.toNat reg.toNat)
  | .readBytes dev reg count => some (.readBytes dev.toNat reg.toNat count.toNat)
  | .start _ | .rstart _ | .send _ | .recvAck _ | .recvNack _ | .stop _ | .enable => none

/-- Every operand of the instruction is in its range (R129). -/
def Instr.wellFormed (i : Instr) : Bool :=
  match i.toAsm? with
  | some a => a.wellFormed
  | none => true

end Sys2Proof
end

