-- ==== Sys2Proof/Certificates/Slice0/Obligations.lean ====
section
/-! DEFINITION. The statements for the provers. Each docstring names the rule of spec/ it formalises. -/

open Sys2Proof Sys2Proof.Machine

/-! ### Encoding -/

/-- 30_encoding.md R111 to R119: decoding the encoding of any instruction gives it back, every operand at every value. -/
def Obligations.DecodeEncodeAgree : Prop :=
  ∀ i : Instr, i.wellFormed = true → decode (encode i) = .ok i

/-- R110 to R119, the other direction: a word that decodes is the encoding of what it decodes to, so no two words
stand for one instruction and no bit of a word is ignored. -/
def Obligations.EncodeDecodeAgree : Prop :=
  ∀ (e : Encoded) (i : Instr), decode e = .ok i → encode i = e

/-- R114: a word encodes the command of a row exactly when `(w & mask) = match`; the patterns are disjoint; a word
that matches no row is reserved. -/
def Obligations.CommandRowsDecideDecoding : Prop :=
  ∀ w : Word,
    (w &&& 0xFFFFFF00#32 = 0x10000000#32 ↔ ∃ div, decodeCommand w = .ok (.init div)) ∧
    (w &&& 0xF8000F00#32 = 0x20000000#32 ↔ ∃ dev reg data, decodeCommand w = .ok (.writeByte dev reg data)) ∧
    (w &&& 0xF8000F00#32 = 0x30000000#32 ↔ ∃ dev reg count, decodeCommand w = .ok (.writeBytes dev reg count)) ∧
    (w &&& 0xF8000FFF#32 = 0x40000000#32 ↔ ∃ dev reg, decodeCommand w = .ok (.readByte dev reg)) ∧
    (w &&& 0xF8000F00#32 = 0x50000000#32 ↔ ∃ dev reg count, decodeCommand w = .ok (.readBytes dev reg count)) ∧
    ((∃ e, decodeCommand w = .error e) ↔
      w &&& 0xFFFFFF00#32 ≠ 0x10000000#32 ∧ w &&& 0xF8000F00#32 ≠ 0x20000000#32 ∧
      w &&& 0xF8000F00#32 ≠ 0x30000000#32 ∧ w &&& 0xF8000FFF#32 ≠ 0x40000000#32 ∧
      w &&& 0xF8000F00#32 ≠ 0x50000000#32)

/-- R131 (the spec marks it as derived from R111 to R113): the seven encoding examples, both ways. -/
def Obligations.RuleExampleWordsDecode : Prop :=
  (encode (.init 0x48) = .command 0x10000048 ∧ decodeTableWord 32 0x10000048 = some (.init 0x48)) ∧
  (encode (.writeByte 0x76 0xF4 0x6F) = .command 0x276F406F ∧
    decodeTableWord 32 0x276F406F = some (.writeByte 0x76 0xF4 0x6F)) ∧
  (encode (.writeBytes 0x76 0xF4 1) = .command 0x376F4001 ∧
    decodeTableWord 32 0x376F4001 = some (.writeBytes 0x76 0xF4 1)) ∧
  (encode (.readByte 0x76 0xF4) = .command 0x476F4000 ∧
    decodeTableWord 32 0x476F4000 = some (.readByte 0x76 0xF4)) ∧
  (encode (.readBytes 0x76 0x88 24) = .command 0x57688018 ∧
    decodeTableWord 32 0x57688018 = some (.readBytes 0x76 0x88 24)) ∧
  (encode (.readBytes 0x7F 0xFF 255) = .command 0x57FFF0FF ∧
    decodeTableWord 32 0x57FFF0FF = some (.readBytes 0x7F 0xFF 255)) ∧
  (encode (.writeBytes 0x00 0x00 0) = .command 0x30000000 ∧
    decodeTableWord 32 0x30000000 = some (.writeBytes 0x00 0x00 0))

/-- R117, R119: the keys `OWN ‖ word` of the control words, for `EN` = 1. -/
def Obligations.ControlWordKeysDecode : Prop :=
  decodeTableWord 16 0b010000011 = some (.start true) ∧
  decodeTableWord 16 0b110000011 = some (.rstart true) ∧
  decodeTableWord 16 0b110000001 = some (.send true) ∧
  decodeTableWord 16 0b110011001 = some (.recvAck true) ∧
  decodeTableWord 16 0b110001001 = some (.recvNack true) ∧
  decodeTableWord 16 0b110000101 = some (.stop true) ∧
  decodeTableWord 16 0b000000001 = some .enable

/-- R116: in every state that meets the invariant, the key `OWN ‖ word` of the control word a phase issues decodes to
the instruction the sequencer runs there: decoding by the table and dispatch by the phase state agree. -/
def Obligations.IssuedKeyDecodesToTheActionRun : Prop :=
  ∀ (s : State) (b : Byte), Inv s → s.ms = .issue → actionBits? s.ph = some b →
    ∃ i, phaseInstr? s.ph s.en = some i ∧
      decodeKey (BitVec.ofBool s.own ++ controlWord b s.en) = .ok i

/-- R125, R126, R127, and R112: the numeric codes. -/
def Obligations.CodesAreTheTables : Prop :=
  (Status.success.code = 0 ∧ Status.error.code = 1 ∧ Status.timeout.code = 2) ∧
  (Phase.idle.code = 0 ∧ Phase.start.code = 1 ∧ Phase.addrW.code = 2 ∧ Phase.regAddr.code = 3 ∧
    Phase.dataW.code = 4 ∧ Phase.rstart.code = 5 ∧ Phase.addrR.code = 6 ∧ Phase.dataRAck.code = 7 ∧
    Phase.dataRNack.code = 8 ∧ Phase.stop.code = 9 ∧ Phase.aborted.code = 10 ∧ Phase.init.code = 11) ∧
  (MicroStep.load.code = 0 ∧ MicroStep.issue.code = 1 ∧ MicroStep.poll.code = 2 ∧ MicroStep.fetch.code = 3) ∧
  (Opcode.init.code = 1 ∧ Opcode.writeByte.code = 2 ∧ Opcode.writeBytes.code = 3 ∧ Opcode.readByte.code = 4 ∧
    Opcode.readBytes.code = 5)

/-! ### A step runs the decoded instruction -/

/-- 42_transactions.md R190: the step that takes a host write of `CMD` runs the instruction the word decodes to. -/
def Obligations.StepRunsDecodedCommand : Prop :=
  ∀ (s : State) (w : Word) (l : List Input) (i : Instr),
    s.inputs = .host (.write 0x000#10 w) :: l → decodeCommand w = .ok i →
    step s = exec i { s with inputs := l }

/-- 00_scope.md R13, 30_encoding.md R117: a turn of the sequencer runs the action of the phase state it is in, `ENABLE`
in the second micro-step of `INIT`; the first micro-step of `INIT` is the divisor's, and in `IDLE` there is none. -/
def Obligations.StepRunsThePhaseAction : Prop :=
  ∀ (s u : State), (s.inputs = [] ∧ u = s) ∨ (∃ l, s.inputs = .tick :: l ∧ u = { s with inputs := l }) →
    (∀ i, phaseInstr? s.ph s.en = some i → ¬(s.ph = .init ∧ s.ms = .load) → step s = exec i u) ∧
    (s.ph = .init ∧ s.ms = .load → step s = .next (configureDivisor u)) ∧
    (s.ph = .idle → step s = .next u)

/-- The placing of an opcode-table word (log 5, the model's own): the very next step runs exactly the instruction the
word decodes to: a command in `s` as it stands; a phase action in a phase state that issues it, at its `ISSUE`
micro-step, with `OWN` and `EN` as the key has them. -/
def Obligations.PlacedWordRunsNext : Prop :=
  ∀ (s : State) (nbits w : Nat) (i : Instr), decodeTableWord nbits w = some i →
    ((∃ f, commandFields? i = some f) → step (s.withFetchWord nbits w) = exec i s) ∧
    (commandFields? i = none → ∃ p, p ∈ issuingPhases i ∧
      step (s.withFetchWord nbits w) = exec i { s with
        ph := p, ms := .issue, own := w.testBit 8, en := if i = .enable then s.en else w.testBit 0 })

/-! ### Commands -/

/-- 42_transactions.md R191: acceptance of each of the five commands while idle; nothing else changes. -/
def Obligations.CommandsAreAccepted : Prop :=
  ∀ (s : State) (dev : DevAddr) (reg arg : Byte), s.ph = .idle →
    exec (.init arg) s = .next { s with
      opc := .init, dev := 0, reg := 0, arg := arg, idx := 0, valid := false, cmderr := false,
      ph := .init, ms := .load } ∧
    exec (.writeByte dev reg arg) s = .next { s with
      opc := .writeByte, dev := dev, reg := reg, arg := arg, idx := 0, valid := false, cmderr := false,
      ph := .start, ms := .issue } ∧
    exec (.writeBytes dev reg arg) s = .next { s with
      opc := .writeBytes, dev := dev, reg := reg, arg := arg, idx := 0, valid := false, cmderr := false,
      ph := .start, ms := .issue } ∧
    exec (.readByte dev reg) s = .next { s with
      opc := .readByte, dev := dev, reg := reg, arg := 0, idx := 0, valid := false, cmderr := false,
      ph := .start, ms := .issue } ∧
    exec (.readBytes dev reg arg) s = .next { s with
      opc := .readBytes, dev := dev, reg := reg, arg := arg, idx := 0, valid := false, cmderr := false,
      ph := .start, ms := .issue }

/-- R190, R191: what a write of `CMD` does, by `BUSY` and by the word; an accepted word is latched field by field. -/
def Obligations.CmdWriteIsAcceptedRefusedOrFaults : Prop :=
  ∀ (s : State) (w : Word),
    (s.ph ≠ .idle → hostAccess (.write 0x000#10 w) s = .fault .hostReentry) ∧
    (s.ph = .idle → (∃ e, decodeCommand w = .error e) →
      hostAccess (.write 0x000#10 w) s = .next { s with cmderr := true }) ∧
    (s.ph = .idle → (∃ i, decodeCommand w = .ok i) →
      ∃ t, hostAccess (.write 0x000#10 w) s = .next t ∧
        t.opc.code = w.extractLsb' 28 4 ∧ t.dev = w.extractLsb' 20 7 ∧ t.reg = w.extractLsb' 12 8 ∧
        t.arg = w.extractLsb' 0 8 ∧ t.idx = 0 ∧ t.valid = false ∧ t.cmderr = false ∧
        (w.extractLsb' 28 4 = 1#4 → t.ph = .init ∧ t.ms = .load) ∧
        (w.extractLsb' 28 4 ≠ 1#4 → t.ph = .start ∧ t.ms = .issue) ∧
        t = { s with opc := t.opc, dev := t.dev, reg := t.reg, arg := t.arg, idx := t.idx, valid := t.valid,
                     cmderr := t.cmderr, ph := t.ph, ms := t.ms })

/-- R192: `CMDERR` stays 1 until a command is accepted (or the CORE is reset, 70_reset_and_hazards.md R260), and only
a refused write of `CMD` sets it. -/
def Obligations.CmderrIsSetByRefusalAndClearedByAcceptance : Prop :=
  ∀ s t : State, step s = .next t →
    (s.cmderr = true → t.cmderr = false →
      (∃ w l i, s.inputs = .host (.write 0x000#10 w) :: l ∧ s.ph = .idle ∧ decodeCommand w = .ok i) ∨
      (∃ a l, s.inputs = .rst a :: l)) ∧
    (s.cmderr = false → t.cmderr = true →
      ∃ w l e, s.inputs = .host (.write 0x000#10 w) :: l ∧ s.ph = .idle ∧ decodeCommand w = .error e ∧
        t = { s with inputs := l, cmderr := true })

/-- 10_state.md R37: `CMD` reads back the word of the last accepted command. -/
def Obligations.CmdReadsBackTheAcceptedWord : Prop :=
  ∀ s : State,
    hostAccess (.read 0x000#10) s = .next { s with hrdata := cmdReg s } ∧
    (∀ (w : Word) (t : State), s.ph = .idle → (∃ i, decodeCommand w = .ok i) →
      hostAccess (.write 0x000#10 w) s = .next t → cmdReg t = w) ∧
    cmdReg State.reset = 0

/-! ### Initialisation -/

/-- 40_init.md R141, R142: the two micro-steps of `INIT`. What they leave in the facade's registers (20_memory.md R80, R95) and
in the history is the model's choice of form (log 6, log 7). -/
def Obligations.InitMicroSteps : Prop :=
  ∀ s : State, s.ph = .init →
    (s.ms = .load → s.inputs = [] →
      step s = .next { s with
        div := s.arg, ms := .issue, facade := { s.facade with baud := s.arg },
        history := .write .baud s.arg :: s.history }) ∧
    (s.ms = .issue →
      exec .enable s = .next { s with
        en := true, ph := .idle, ms := .load, own := false, result := .success, valid := true,
        facade := { s.facade with ctrl := 0x01#8 }, history := .write .ctrl 0x01#8 :: s.history })

/-- 40_init.md R140 to R144: `INIT` accepted while idle ends with `Success` after exactly two micro-steps, whatever the
divisor and whatever the facade would answer. That the facade's registers stay between the CORE's accesses, and the
history, are the model's choice (log 6, log 7). -/
def Obligations.InitRunsToSuccess : Prop :=
  ∀ (s : State) (div : Byte), s.ph = .idle → s.inputs = [] →
    ∃ t, exec (.init div) s = .next t ∧
      stepN 2 t = .next { s with
        en := true, div := div, opc := .init, dev := 0, reg := 0, arg := div, ms := .load, idx := 0, own := false,
        result := .success, valid := true, cmderr := false,
        facade := { s.facade with ctrl := 0x01#8, baud := div },
        history := .write .ctrl 0x01#8 :: .write .baud div :: s.history }

/-- 40_init.md R143: a second `INIT` with the same divisor makes the same two facade writes and leaves the CORE as the first
left it. That the facade's registers, too, are as the first left them is the model's choice (log 7), and so is the
form of the history (log 6). -/
def Obligations.InitRerunIsIdempotent : Prop :=
  ∀ (s t t₁ : State) (div : Byte), s.ph = .idle → s.inputs = [] →
    exec (.init div) s = .next t → stepN 2 t = .next t₁ →
    ∃ u, exec (.init div) t₁ = .next u ∧
      stepN 2 u = .next { t₁ with history := .write .ctrl 0x01#8 :: .write .baud div :: t₁.history }

/-! ### The micro-steps of a phase -/

/-- 00_scope.md R11, 20_memory.md R80, R91, R95: all that one facade access does to the state. A write of `DATA` or `BAUD`
stores the byte; a write of `CTRL` stores the word and clears `DONE` exactly when `GO` = 1, `STAT[7:1]` as before; a
read gives the next listed answer, or past the list's end a free value, and leaves it in the register read. The
history, the answers and the registers as held are the model's own (log 3, log 6, log 7). -/
def Obligations.FacadeAccessEffects : Prop :=
  ∀ (s : State) (v : Byte),
    (facWrite .data v s = { s with facade := { s.facade with data := v }, history := .write .data v :: s.history } ∧
      facWrite .baud v s = { s with facade := { s.facade with baud := v }, history := .write .baud v :: s.history } ∧
      (v.getLsbD 7 = true → facWrite .ctrl v s = { s with
        facade := { s.facade with ctrl := v, stat := s.facade.stat.extractLsb' 1 7 ++ 0#1 }
        history := .write .ctrl v :: s.history }) ∧
      (v.getLsbD 7 = false → facWrite .ctrl v s = { s with
        facade := { s.facade with ctrl := v }, history := .write .ctrl v :: s.history })) ∧
    (∀ l, s.answers = v :: l →
      facAnswer s = v ∧
      facRead .stat s = { s with
        facade := { s.facade with stat := v }, history := .read .stat v :: s.history, answers := l } ∧
      facRead .data s = { s with
        facade := { s.facade with data := v }, history := .read .data v :: s.history, answers := l } ∧
      facRead .ctrl s = { s with
        facade := { s.facade with ctrl := v }, history := .read .ctrl v :: s.history, answers := l } ∧
      facRead .baud s = { s with
        facade := { s.facade with baud := v }, history := .read .baud v :: s.history, answers := l }) ∧
    (s.answers = [] →
      facAnswer s = Config.facadeAnswer s.freeNext ∧
      ∀ r, facRead r s = { facRead r { s with answers := [facAnswer s] } with freeNext := s.freeNext + 1 })

/-- 41_phase_sequencer.md R154, R155, 30_encoding.md R117, R118: the `ISSUE` of each phase action runs, whatever `TCNT`
held: its control word, `OWN` set by `START` only, the budget loaded afresh, nothing else. Bit 0 of the word is the
instruction's operand, whatever `EN` holds: the model's choice (log 14); the sequencer gives it `EN`
(StepRunsThePhaseAction). The facade's registers by 20_memory.md R80 (log 7). -/
def Obligations.ActionsIssueTheirControlWord : Prop :=
  ∀ (s : State) (i : Instr) (e : Bool) (w : Byte), s.ms = .issue →
    (i = .start e ∧ s.ph = .start ∧ w = (if e then 0x83 else 0x82)) ∨
    (i = .rstart e ∧ s.ph = .rstart ∧ w = (if e then 0x83 else 0x82)) ∨
    (i = .send e ∧ (s.ph = .addrW ∨ s.ph = .regAddr ∨ s.ph = .dataW ∨ s.ph = .addrR) ∧
      w = (if e then 0x81 else 0x80)) ∨
    (i = .recvAck e ∧ s.ph = .dataRAck ∧ w = (if e then 0x99 else 0x98)) ∨
    (i = .recvNack e ∧ s.ph = .dataRNack ∧ w = (if e then 0x89 else 0x88)) ∨
    (i = .stop e ∧ (s.ph = .stop ∨ s.ph = .aborted) ∧ w = (if e then 0x85 else 0x84)) →
    exec i s = .next { s with
      own := if s.ph = .start then true else s.own
      tcnt := s.params.tmo
      ms := .poll
      facade := { s.facade with ctrl := w, stat := s.facade.stat &&& 0xFE#8 }
      history := .write .ctrl w :: s.history }

/-- 41_phase_sequencer.md R153, R159, 30_encoding.md R121, R122: the `LOAD` of each send phase writes its byte to `DATA`
and changes nothing else of the CORE but `MS`. The facade's registers by 20_memory.md R80, and the history, as the model
holds them (log 6, log 7). -/
def Obligations.SendLoadsItsByte : Prop :=
  ∀ (s : State) (e : Bool) (b : Byte), s.ms = .load →
    (s.ph = .addrW ∧ b = s.dev ++ 0#1) ∨
    (s.ph = .regAddr ∧ b = s.reg) ∨
    (s.ph = .dataW ∧ s.opc = .writeByte ∧ b = s.arg) ∨
    (s.ph = .dataW ∧ s.opc = .writeBytes ∧ Memory.read s.buf s.idx.toNat = some b) ∨
    (s.ph = .addrR ∧ b = s.dev ++ 1#1) →
    exec (.send e) s = .next { s with
      ms := .issue
      facade := { s.facade with data := b }
      history := .write .data b :: s.history }

/-- 10_state.md R35, 70_reset_and_hazards.md R268 (93_implementation_defined.md U7): the `LOAD` of a `WRITE_BYTES` data
phase stops exactly when the cell has not been written since reset. -/
def Obligations.UnwrittenCellStopsTheLoad : Prop :=
  ∀ (s : State) (e : Bool), s.ph = .dataW → s.ms = .load → s.opc = .writeBytes →
    (exec (.send e) s = .fault .bufUninit ↔ Memory.read s.buf s.idx.toNat = none)

/-- 41_phase_sequencer.md R156, 60_exceptions.md R240: a poll that sees `DONE` = 0 with budget left only counts down; a
poll that sees `DONE` = 1 in a receive phase goes on to `FETCH`, even when `TCNT` is 1. -/
def Obligations.PollCountsDownOrGoesOn : Prop :=
  ∀ (s : State) (i : Instr), s.ms = .poll → s.ph ∈ issuingPhases i → i ≠ .enable →
    (doneFlag (facAnswer s) = false → 2 ≤ s.tcnt →
      exec i s = .next { facRead .stat s with tcnt := s.tcnt - 1 }) ∧
    (doneFlag (facAnswer s) = true → (s.ph = .dataRAck ∨ s.ph = .dataRNack) →
      exec i s = .next { facRead .stat s with ms := .fetch })

/-- 42_transactions.md R195, 41_phase_sequencer.md R152: the successor of every condition and send phase, row by row, in
the micro-step whose poll sees `DONE` = 1; the poll itself is `facRead .stat`. -/
def Obligations.PhaseSuccessors : Prop :=
  ∀ (s : State) (e : Bool) (i : Instr) (t : State), s.ms = .poll → doneFlag (facAnswer s) = true →
    (s.ph = .start ∧ i = .start e ∧ t = { facRead .stat s with ph := .addrW, ms := .load }) ∨
    (s.ph = .addrW ∧ i = .send e ∧ t = { facRead .stat s with ph := .regAddr, ms := .load }) ∨
    (s.ph = .regAddr ∧ i = .send e ∧
      ((s.opc = .writeByte ∧ t = { facRead .stat s with ph := .dataW, ms := .load }) ∨
       (s.opc = .writeBytes ∧ s.cnt = 0 ∧ t = { facRead .stat s with ph := .stop, ms := .issue }) ∨
       (s.opc = .writeBytes ∧ 1 ≤ s.cnt ∧ t = { facRead .stat s with ph := .dataW, ms := .load }) ∨
       (s.opc = .readByte ∧ t = { facRead .stat s with ph := .rstart, ms := .issue }) ∨
       (s.opc = .readBytes ∧ s.cnt = 0 ∧ s.params.rd0Full = false ∧
          t = { facRead .stat s with ph := .stop, ms := .issue }) ∨
       (s.opc = .readBytes ∧ (1 ≤ s.cnt ∨ s.params.rd0Full = true) ∧
          t = { facRead .stat s with ph := .rstart, ms := .issue }))) ∨
    (s.ph = .dataW ∧ i = .send e ∧
      ((s.opc = .writeByte ∧ t = { facRead .stat s with idx := s.idx + 1, ph := .stop, ms := .issue }) ∨
       (s.opc = .writeBytes ∧ s.idx.toNat + 1 = s.cnt ∧
          t = { facRead .stat s with idx := s.idx + 1, ph := .stop, ms := .issue }) ∨
       (s.opc = .writeBytes ∧ s.idx.toNat + 1 < s.cnt ∧
          t = { facRead .stat s with idx := s.idx + 1, ph := .dataW, ms := .load }))) ∨
    (s.ph = .rstart ∧ i = .rstart e ∧ (s.opc = .readByte ∨ s.opc = .readBytes) ∧
      t = { facRead .stat s with ph := .addrR, ms := .load }) ∨
    (s.ph = .addrR ∧ i = .send e ∧
      ((s.opc = .readByte ∧ t = { facRead .stat s with ph := .dataRNack, ms := .issue }) ∨
       (s.opc = .readBytes ∧ s.cnt = 0 ∧ t = { facRead .stat s with ph := .stop, ms := .issue }) ∨
       (s.opc = .readBytes ∧ s.cnt = 1 ∧ t = { facRead .stat s with ph := .dataRNack, ms := .issue }) ∨
       (s.opc = .readBytes ∧ 2 ≤ s.cnt ∧ t = { facRead .stat s with ph := .dataRAck, ms := .issue }))) ∨
    (s.ph = .stop ∧ i = .stop e ∧
      t = { facRead .stat s with ph := .idle, ms := .load, own := false, result := .success, valid := true }) ∨
    (s.ph = .aborted ∧ i = .stop e ∧
      t = { facRead .stat s with ph := .idle, ms := .load, own := false, result := .timeout, valid := true }) →
    exec i s = .next t

/-- 41_phase_sequencer.md R158: the `FETCH` of a receive phase, for `READ_BYTE` and `READ_BYTES`, with its transition. -/
def Obligations.FetchStoresTheByte : Prop :=
  ∀ (s : State) (e : Bool) (i : Instr), s.ms = .fetch →
    (i = .recvAck e ∧ s.ph = .dataRAck) ∨ (i = .recvNack e ∧ s.ph = .dataRNack) →
    ∃ t, exec i s = .next t ∧
      t.history = .read .data (facAnswer s) :: s.history ∧
      t.idx = s.idx + 1 ∧
      (s.opc = .readByte → t.rdata = facAnswer s ∧ t.buf = s.buf) ∧
      (s.opc ≠ .readByte → t.rdata = s.rdata ∧
        ∀ a, Memory.read t.buf a = if a = s.idx.toNat then some (facAnswer s) else Memory.read s.buf a) ∧
      t.ph = (if s.ph = .dataRNack then .stop
              else if (s.idx + 1).toNat + 1 = s.cnt then .dataRNack else .dataRAck) ∧
      t.ms = .issue ∧
      t = { facRead .data s with rdata := t.rdata, buf := t.buf, idx := t.idx, ph := t.ph, ms := t.ms }

/-- Where an instruction stops. A command while busy (42_transactions.md R193). An action in a phase state that does not
issue it (30_encoding.md R117), or at a micro-step its phase does not have (41_phase_sequencer.md R151): that it stops
there at all, and by which name, is the model's choice (log 9), for the spec gives it no meaning there. `ENABLE` in the
first micro-step of `INIT`: that this is not its micro-step is log 16, the fault log 9. Such states may be reached; no
step from a state that meets the invariant runs the action there (OnlyTheSpecsFaultsOccur). -/
def Obligations.InstructionsStopElsewhere : Prop :=
  ∀ (i : Instr) (s : State),
    ((∃ f, commandFields? i = some f) → s.ph ≠ .idle → exec i s = .fault .hostReentry) ∧
    (commandFields? i = none → s.ph ∉ issuingPhases i → exec i s = .fault .wrongPhase) ∧
    (commandFields? i = none → s.ph ∈ issuingPhases i → legalMicroStep s.ph s.ms = false →
      exec i s = .fault .noMicroStep) ∧
    (i = .enable → s.ph = .init → s.ms = .load → exec i s = .fault .noMicroStep)

/-! ### The exception -/

/-- 60_exceptions.md R236: the `TMO`-th poll of a phase from `START` to `STOP` that reads `DONE` = 0 enters `ABORTED` in
that same micro-step, and saves nothing. -/
def Obligations.TimeoutEntersAborted : Prop :=
  ∀ (s : State) (i : Instr), s.ms = .poll → s.ph ∈ issuingPhases i → i ≠ .enable → s.ph ≠ .aborted →
    s.tcnt = 1 → doneFlag (facAnswer s) = false →
    exec i s = .next { facRead .stat s with ph := .aborted, ms := .issue, tcnt := 0 }

/-- 60_exceptions.md R238, R239: the `ABORTED` phase ends by `finish(Timeout)`, whether its last poll saw `DONE` or not;
a timeout inside it is absorbed. -/
def Obligations.AbortedReturnsTimeout : Prop :=
  ∀ (s : State) (e : Bool), s.ms = .poll → s.ph = .aborted →
    (doneFlag (facAnswer s) = true →
      exec (.stop e) s = .next { facRead .stat s with
        ph := .idle, ms := .load, own := false, result := .timeout, valid := true }) ∧
    (doneFlag (facAnswer s) = false → s.tcnt = 1 →
      exec (.stop e) s = .next { facRead .stat s with
        ph := .idle, ms := .load, own := false, result := .timeout, valid := true, tcnt := 0 })

/-- 41_phase_sequencer.md R157, R169, 60_exceptions.md R240: from its `ISSUE`, a phase whose first `TMO` reads all show
`DONE` = 0 makes exactly `TMO` polls and times out; one whose reads show `DONE` = 0 fewer than `TMO` times is still
polling, with that much of the budget used, whatever it used before. -/
def Obligations.BudgetIsExactlyTmoPolls : Prop :=
  ∀ (s : State) (l rest : List Byte), s.ph.isBus = true → s.ms = .issue → s.inputs = [] →
    s.answers = l ++ rest → noneDone l →
    (l.length < s.params.tmo →
      ∃ t, stepN (1 + l.length) s = .next t ∧ t.ph = s.ph ∧ t.ms = .poll ∧ t.tcnt = s.params.tmo - l.length ∧
        pollCount t.history = pollCount s.history + l.length ∧ t.answers = rest) ∧
    (l.length = s.params.tmo →
      ∃ t, stepN (1 + l.length) s = .next t ∧ t.tcnt = 0 ∧
        pollCount t.history = pollCount s.history + s.params.tmo ∧
        (s.ph ≠ .aborted → t.ph = .aborted ∧ t.ms = .issue ∧ t.own = (s.own || s.ph == .start)) ∧
        (s.ph = .aborted → t.ph = .idle ∧ t.ms = .load ∧ t.own = false ∧ t.result = .timeout ∧ t.valid = true))

/-! ### Whole commands -/

/-- 42_transactions.md R196, R210: `WRITE_BYTE` on a prompt facade: 13 micro-steps, the exact accesses, `Success`, and
the whole state (the facade's registers as the model shows them, log 7). -/
def Obligations.WriteByteRunsToSuccess : Prop :=
  ∀ (s : State) (dev : DevAddr) (reg data p₁ p₂ p₃ p₄ p₅ : Byte) (rest : List Byte),
    s.ph = .idle → s.inputs = [] → s.answers = [p₁, p₂, p₃, p₄, p₅] ++ rest → allDone [p₁, p₂, p₃, p₄, p₅] →
    ∃ t, exec (.writeByte dev reg data) s = .next t ∧
      stepN 13 t = .next { s with
        opc := .writeByte, dev := dev, reg := reg, arg := data, ms := .load, idx := 1, tcnt := s.params.tmo,
        own := false, result := .success, valid := true, cmderr := false, answers := rest
        facade := { ctrl := controlWord 0x84 s.en, stat := p₅, data := data, baud := s.facade.baud }
        history := conditionTrace (controlWord 0x84 s.en) p₅ ++ sendTrace data (controlWord 0x80 s.en) p₄ ++
          sendTrace reg (controlWord 0x80 s.en) p₃ ++ sendTrace (dev ++ 0#1) (controlWord 0x80 s.en) p₂ ++
          conditionTrace (controlWord 0x82 s.en) p₁ ++ s.history }

/-- R197, R201, R210: `WRITE_BYTES` on a prompt facade, for every count, zero included: 10 + 3·`CNT` micro-steps, the
cells `BUF[0..CNT-1]` sent in order, `Success`, no cell written. -/
def Obligations.WriteBytesRunsToSuccess : Prop :=
  ∀ (s : State) (dev : DevAddr) (reg count p₁ p₂ p₃ p₄ : Byte) (l : List (Byte × Byte)) (rest : List Byte),
    s.ph = .idle → s.inputs = [] → l.length = count.toNat →
    (∀ k, k < l.length → Memory.read s.buf k = (l[k]?).map Prod.fst) →
    s.answers = [p₁, p₂, p₃] ++ l.map Prod.snd ++ p₄ :: rest →
    allDone [p₁, p₂, p₃, p₄] → allDone (l.map Prod.snd) →
    ∃ t u, exec (.writeBytes dev reg count) s = .next t ∧ stepN (10 + 3 * count.toNat) t = .next u ∧
      u = { s with
        opc := .writeBytes, dev := dev, reg := reg, arg := count, ms := .load, idx := count, tcnt := s.params.tmo,
        own := false, result := .success, valid := true, cmderr := false, answers := rest, facade := u.facade
        history := conditionTrace (controlWord 0x84 s.en) p₄ ++ sendsTrace (controlWord 0x80 s.en) l ++
          sendTrace reg (controlWord 0x80 s.en) p₃ ++ sendTrace (dev ++ 0#1) (controlWord 0x80 s.en) p₂ ++
          conditionTrace (controlWord 0x82 s.en) p₁ ++ s.history }

/-- R198, R210: `READ_BYTE` on a prompt facade: 18 micro-steps, the exact accesses, one NACK, the byte in `RDATA`, `BUF`
untouched, `Success` (the facade's registers as the model shows them, log 7). -/
def Obligations.ReadByteRunsToSuccess : Prop :=
  ∀ (s : State) (dev : DevAddr) (reg d p₁ p₂ p₃ p₄ p₅ p₆ p₇ : Byte) (rest : List Byte),
    s.ph = .idle → s.inputs = [] → s.answers = [p₁, p₂, p₃, p₄, p₅, p₆, d, p₇] ++ rest →
    allDone [p₁, p₂, p₃, p₄, p₅, p₆, p₇] →
    ∃ t, exec (.readByte dev reg) s = .next t ∧
      stepN 18 t = .next { s with
        opc := .readByte, dev := dev, reg := reg, arg := 0, ms := .load, idx := 1, tcnt := s.params.tmo,
        own := false, result := .success, valid := true, cmderr := false, rdata := d, answers := rest
        facade := { ctrl := controlWord 0x84 s.en, stat := p₇, data := d, baud := s.facade.baud }
        history := conditionTrace (controlWord 0x84 s.en) p₇ ++ receiveTrace (controlWord 0x88 s.en) p₆ d ++
          sendTrace (dev ++ 1#1) (controlWord 0x80 s.en) p₅ ++ conditionTrace (controlWord 0x82 s.en) p₄ ++
          sendTrace reg (controlWord 0x80 s.en) p₃ ++ sendTrace (dev ++ 0#1) (controlWord 0x80 s.en) p₂ ++
          conditionTrace (controlWord 0x82 s.en) p₁ ++ s.history }

/-- R199 to R201, R203, R210: `READ_BYTES` on a prompt facade, for every count (a count of 0 with `RD0_FULL` = 1):
15 + 3·`CNT` micro-steps, `CNT - 1` ACK phases and then one NACK phase, byte k in `BUF[k]`, every other cell and
`RDATA` unchanged, `Success`. -/
def Obligations.ReadBytesRunsToSuccess : Prop :=
  ∀ (s : State) (dev : DevAddr) (reg count p₁ p₂ p₃ p₄ p₅ p₆ : Byte) (l : List (Byte × Byte)) (rest : List Byte),
    s.ph = .idle → s.inputs = [] → l.length = count.toNat → (count = 0 → s.params.rd0Full = true) →
    s.answers = [p₁, p₂, p₃, p₄, p₅] ++ receiveAnswers l ++ p₆ :: rest →
    allDone [p₁, p₂, p₃, p₄, p₅, p₆] → allDone (l.map Prod.fst) →
    ∃ t u, exec (.readBytes dev reg count) s = .next t ∧ stepN (15 + 3 * count.toNat) t = .next u ∧
      (∀ k, k < count.toNat → Memory.read u.buf k = (l[k]?).map Prod.snd) ∧
      (∀ k, count.toNat ≤ k → Memory.read u.buf k = Memory.read s.buf k) ∧
      u = { s with
        opc := .readBytes, dev := dev, reg := reg, arg := count, ms := .load, idx := count, tcnt := s.params.tmo,
        own := false, result := .success, valid := true, cmderr := false, buf := u.buf, answers := rest
        facade := u.facade
        history := conditionTrace (controlWord 0x84 s.en) p₆ ++
          receivesTrace (controlWord 0x98 s.en) (controlWord 0x88 s.en) l ++
          sendTrace (dev ++ 1#1) (controlWord 0x80 s.en) p₅ ++ conditionTrace (controlWord 0x82 s.en) p₄ ++
          sendTrace reg (controlWord 0x80 s.en) p₃ ++ sendTrace (dev ++ 0#1) (controlWord 0x80 s.en) p₂ ++
          conditionTrace (controlWord 0x82 s.en) p₁ ++ s.history }

/-- R201: a zero-count `READ_BYTES` with `RD0_FULL` = 0 is `START`, `ADDR_W`, `REG_ADDR`, `STOP`: no repeated start, no
data phase, no cell touched, `IDX` = 0, `Success`. -/
def Obligations.ShortZeroCountRead : Prop :=
  ∀ (s : State) (dev : DevAddr) (reg p₁ p₂ p₃ p₄ : Byte) (rest : List Byte),
    s.ph = .idle → s.inputs = [] → s.params.rd0Full = false → s.answers = [p₁, p₂, p₃, p₄] ++ rest →
    allDone [p₁, p₂, p₃, p₄] →
    ∃ t u, exec (.readBytes dev reg 0) s = .next t ∧ stepN 10 t = .next u ∧
      u = { s with
        opc := .readBytes, dev := dev, reg := reg, arg := 0, ms := .load, idx := 0, tcnt := s.params.tmo,
        own := false, result := .success, valid := true, cmderr := false, answers := rest, facade := u.facade
        history := conditionTrace (controlWord 0x84 s.en) p₄ ++ sendTrace reg (controlWord 0x80 s.en) p₃ ++
          sendTrace (dev ++ 0#1) (controlWord 0x80 s.en) p₂ ++ conditionTrace (controlWord 0x82 s.en) p₁ ++ s.history }

/-- 70_reset_and_hazards.md R274, 42_transactions.md R205: on a facade that never sets `DONE`, every transaction command
makes exactly 2·`TMO` polls in 2·`TMO` + 2 micro-steps, writes the start word and then the stop word, and ends in
`Timeout` with no data phase done and no data moved. -/
def Obligations.DeadFacadeTimesOut : Prop :=
  ∀ (s : State) (i : Instr) (o : Opcode) (d : DevAddr) (r a : Byte) (l rest : List Byte),
    commandFields? i = some (o, d, r, a) → o.isTransaction = true → s.ph = .idle → s.inputs = [] →
    s.answers = l ++ rest → l.length = 2 * s.params.tmo → noneDone l →
    ∃ t u, exec i s = .next t ∧ stepN (2 * s.params.tmo + 2) t = .next u ∧
      u.ph = .idle ∧ u.ms = .load ∧ u.result = .timeout ∧ u.valid = true ∧ u.own = false ∧ u.idx = 0 ∧ u.tcnt = 0 ∧
      pollCount u.history = pollCount s.history + 2 * s.params.tmo ∧
      ctrlWords u.history = controlWord 0x84 s.en :: controlWord 0x82 s.en :: ctrlWords s.history ∧
      u.buf = s.buf ∧ u.rdata = s.rdata ∧ u.answers = rest

/-- 70_reset_and_hazards.md R274 (the bound `(P + 1)·(TMO + 3)`), 41_phase_sequencer.md R157: "no operation blocks
forever": whatever the facade answers, an accepted transaction command is back in `IDLE` within the bound, with
`Success` or `Timeout`, provided a `WRITE_BYTES` has its cells filled. -/
def Obligations.EveryTransactionEnds : Prop :=
  ∀ (s t : State) (i : Instr) (o : Opcode) (d : DevAddr) (r a : Byte),
    Inv s → commandFields? i = some (o, d, r, a) → o.isTransaction = true → s.ph = .idle → s.inputs = [] →
    exec i s = .next t → bufFilled t →
    ∃ k u, k ≤ (pathPhases t + 1) * (s.params.tmo + 3) ∧ stepN k t = .next u ∧
      u.ph = .idle ∧ u.valid = true ∧ (u.result = .success ∨ u.result = .timeout)

/-- 42_transactions.md R208: two runs of one command that agree on `EN`, on `BUF` and on the facade's answers make the
same facade accesses and end with the same result, whatever else earlier commands left behind. -/
def Obligations.TransactionsDoNotLeak : Prop :=
  ∀ (s₁ s₂ : State) (i : Instr) (f : Opcode × DevAddr × Byte × Byte),
    commandFields? i = some f → s₁.ph = .idle → s₂.ph = .idle → s₁.inputs = [] → s₂.inputs = [] →
    s₁.en = s₂.en → s₁.buf = s₂.buf → s₁.params = s₂.params → s₁.answers = s₂.answers → s₁.freeNext = s₂.freeNext →
    ∃ t₁ t₂, exec i s₁ = .next t₁ ∧ exec i s₂ = .next t₂ ∧
      ∀ n u₁, stepN n t₁ = .next u₁ →
        ∃ u₂ ev, stepN n t₂ = .next u₂ ∧ u₁.history = ev ++ s₁.history ∧ u₂.history = ev ++ s₂.history ∧
          u₁.ph = u₂.ph ∧ u₁.ms = u₂.ms ∧ u₁.idx = u₂.idx ∧ u₁.buf = u₂.buf ∧
          (u₁.valid = true → u₂.valid = true ∧ u₁.result = u₂.result)

/-- The echo property (95_test_vectors.md E1) under the facade contract 20_memory.md R91 to R95 and the register-pointer
peripheral R97 (a premise, log 15, log 19): with `EN` = 1, as `INIT` leaves it (70_reset_and_hazards.md R264), on a prompt facade whose answers keep the contract in front of a peripheral at `dev`, `WRITE_BYTE dev, reg, b`
and then `READ_BYTE dev, reg` give the byte back, with `Success`. -/
def Obligations.WriteThenReadEchoes : Prop :=
  ∀ (s : State) (p : Platform) (reg b d : Byte) (ps qs rest : List Byte) (q : Byte),
    s.en = true →
    s.ph = .idle → s.inputs = [] → ps.length = 5 → qs.length = 6 → allDone ps → allDone qs → doneFlag q = true →
    s.answers = ps ++ qs ++ d :: q :: rest →
    ∃ t u v w h, exec (.writeByte p.address reg b) s = .next t ∧ stepN 13 t = .next u ∧
      exec (.readByte p.address reg) u = .next v ∧ stepN 18 v = .next w ∧
      u.result = .success ∧ w.result = .success ∧ w.history = h ++ s.history ∧
      (p.conforms h.reverse = true → w.rdata = b)

/-- The facade contract's control words, on the premise platform. 20_memory.md R95: a word with `GO` = 0 turns the controller
on or off by its `EN` bit and touches neither the phase nor `DONE`, but that one with `EN` = 0 leaves a phase in flight
unspecified is the model's choice (log 17). R91, R94, R92: a `GO` word with `EN` = 1 begins its phase with the byte in
`DATA`, whatever came before; the phase completes at a poll that shows `DONE` (log 15), and from then every `STAT` read
owes `DONE`. 40_init.md R145, 93_implementation_defined.md U3: after a `GO` word with `EN` = 0 every run of answers is
allowed, until a `GO` word with `EN` = 1. Words the CORE never writes are taken like the others (log 18). -/
def Obligations.ControllerMustBeOn : Prop :=
  ∀ (p : Platform) (w : Byte),
    (w.getLsbD 7 = false →
      (p.after (.write .ctrl w)).enabled = w.getLsbD 0 ∧
      (w.getLsbD 0 = true ∨ (∀ v b, p.launch ≠ .inFlight v b) →
        p.after (.write .ctrl w) = { p with enabled := w.getLsbD 0 }) ∧
      (w.getLsbD 0 = false → (∃ v b, p.launch = .inFlight v b) →
        (p.after (.write .ctrl w)).launch = .unspecified)) ∧
    (w.getLsbD 7 = true → w.getLsbD 0 = true →
      (p.after (.write .ctrl w)).launch = .inFlight w p.toSend ∧
      ∀ v : Byte, ((p.after (.write .ctrl w)).after (.read .stat v)).launch =
        if v.getLsbD 0 then .completed else .inFlight w p.toSend) ∧
    (p.launch = .completed → ∀ v : Byte, p.allows (.read .stat v) = v.getLsbD 0) ∧
    (w.getLsbD 7 = true → w.getLsbD 0 = false →
      ∀ h : List FacAccess, h.all (fun a => !a.begins) = true → p.conforms (.write .ctrl w :: h) = true)

/-! ### Invariants and whole-machine rules -/

/-- The reset state, with any parameters, any facade and any inputs and answers to come, meets the invariant. -/
def Obligations.ResetMeetsTheInvariant : Prop := ∀ s : State, justReset s → Inv s

/-- Every step keeps the invariant: from any state that meets it, whoever acts. -/
def Obligations.StepKeepsTheInvariant : Prop :=
  ∀ s t : State, Inv s → step s = .next t → Inv t

/-- 10_state.md R52 (the spec marks it as derived): in every reachable state the eight clauses hold. -/
def Obligations.ReachableStatesObeyTheRules : Prop :=
  ∀ s : State, Reachable s → StateRules s

/-- From a state that meets the invariant a step stops for two reasons only, both the spec's: a host access forbidden
while busy (42_transactions.md R193, 70_reset_and_hazards.md R267), or the `LOAD` of a cell never written (10_state.md
R35, 70_reset_and_hazards.md R268); it never refuses, and no (`PH`, `MS`, `OPC`) of which the spec says that it is not
reachable comes up. -/
def Obligations.OnlyTheSpecsFaultsOccur : Prop :=
  ∀ s : State, Inv s →
    (∀ r, step s ≠ .refused r) ∧
    ∀ f, step s = .fault f →
      (f = .hostReentry ∧ s.ph ≠ .idle ∧ ∃ a l, s.inputs = .host a :: l ∧ forbiddenWhileBusy a = true) ∨
      (f = .bufUninit ∧ s.ph = .dataW ∧ s.ms = .load ∧ s.opc = .writeBytes ∧
        Memory.read s.buf s.idx.toNat = none)

/-- 42_transactions.md R193, 70_reset_and_hazards.md R266, R267: a `CMD` write and any access of the buffer window while
`BUSY` = 1 stop; every other access of the port answers at any time. -/
def Obligations.BusyHostAccessStopsExactlyWhereForbidden : Prop :=
  ∀ (s : State) (a : HostAccess), s.ph ≠ .idle →
    (forbiddenWhileBusy a = true → hostAccess a s = .fault .hostReentry) ∧
    (forbiddenWhileBusy a = false → ∃ w, hostAccess a s = .next { s with hrdata := w })

/-- 42_transactions.md R205: the step that takes a bus phase to `IDLE` (no reset) leaves the `STOP` word as the last word
written to `CTRL`, on the success path and on every timeout path. -/
def Obligations.TransactionsAlwaysEndWithStop : Prop :=
  ∀ s t : State, Inv s → s.ph.isBus = true → t.ph = .idle → step s = .next t →
    (∃ a l, s.inputs = .rst a :: l) ∨ lastCtrl t.history = some (controlWord 0x84 s.en)

/-- 20_memory.md R86: between `START` and `STOP` or `ABORTED` the sequencer writes no control word with `STO` = 1, and
`OWN` stays 1 until the transaction ends. -/
def Obligations.BusIsHeldUntilStop : Prop :=
  ∀ s t : State, Inv s → step s = .next t →
    (∀ w, t.history = .write .ctrl w :: s.history → w.getLsbD 2 = true → s.ph = .stop ∨ s.ph = .aborted) ∧
    (s.own = true → t.own = false → t.ph = .idle)

/-- 20_memory.md R73: a turn of the sequencer outside `IDLE` makes exactly one facade access: `DATA` written in `LOAD`, `CTRL`
in `ISSUE` and in the second micro-step of `INIT`, `STAT` read in `POLL`, `DATA` read in `FETCH`, `BAUD` written in the
first micro-step of `INIT`. No access is made in `IDLE`, by a host access or in a reset cycle. -/
def Obligations.FacadeAccessesAreExactlyThese : Prop :=
  ∀ s t : State, step s = .next t →
    ((s.ph = .idle ∨ (∃ a l, s.inputs = .host a :: l) ∨ ∃ a l, s.inputs = .rst a :: l) → t.history = s.history) ∧
    (s.ph ≠ .idle → (s.inputs = [] ∨ ∃ l, s.inputs = .tick :: l) →
      (∃ b, s.ms = .load ∧ s.ph.isSend = true ∧ t.history = .write .data b :: s.history) ∨
      (∃ w, s.ms = .issue ∧ t.history = .write .ctrl w :: s.history) ∨
      (∃ v, s.ms = .poll ∧ s.ph.isBus = true ∧ t.history = .read .stat v :: s.history) ∨
      (∃ v, s.ms = .fetch ∧ s.ph.isReceive = true ∧ t.history = .read .data v :: s.history) ∨
      (s.ms = .load ∧ s.ph = .init ∧ t.history = .write .baud s.arg :: s.history))

/-- 30_encoding.md R118, R119, R120 (the spec marks R120 as derived): the CORE writes no value to `CTRL` but
`action_bits | EN` of the six actions and 0x01. -/
def Obligations.CtrlWordsAreExactlyTheSeven : Prop :=
  ∀ (s t : State) (w : Byte), step s = .next t → t.history = .write .ctrl w :: s.history →
    ((w = 0x82 ∨ w = 0x80 ∨ w = 0x98 ∨ w = 0x88 ∨ w = 0x84) ∧ s.en = false) ∨
    ((w = 0x83 ∨ w = 0x81 ∨ w = 0x99 ∨ w = 0x89 ∨ w = 0x85) ∧ s.en = true) ∨
    (w = 0x01 ∧ s.ph = .init ∧ s.ms = .issue)

/-- 42_transactions.md R203, 10_state.md R35: `RDATA` changes only in the `FETCH` of a `READ_BYTE`; a turn of the
sequencer changes `BUF` only in the `FETCH` of a `READ_BYTES`, and then one cell, `BUF[IDX]`. -/
def Obligations.ReadDataGoesWhereItBelongs : Prop :=
  ∀ s t : State, Inv s → step s = .next t → (∀ a l, s.inputs ≠ .rst a :: l) →
    (t.rdata ≠ s.rdata → s.ms = .fetch ∧ s.ph = .dataRNack ∧ s.opc = .readByte) ∧
    ((∀ a l, s.inputs ≠ .host a :: l) → t.buf ≠ s.buf →
      s.ms = .fetch ∧ (s.ph = .dataRAck ∨ s.ph = .dataRNack) ∧ s.opc = .readBytes ∧
      ∀ a, a ≠ s.idx.toNat → Memory.read t.buf a = Memory.read s.buf a)

/-- 10_state.md R20, R21, R22 to R25, R31, 00_scope.md R9: outside reset, `EN` changes only to 1 and only by `ENABLE`,
`DIV` only by the first micro-step of `INIT`, the command latch only while idle, `RESULT` only in a step that ends a
command, and the parameters never. -/
def Obligations.EachElementHasItsWriter : Prop :=
  ∀ s t : State, step s = .next t →
    t.params = s.params ∧
    ((∀ a l, s.inputs ≠ .rst a :: l) →
      (t.en ≠ s.en → t.en = true ∧ s.ph = .init ∧ s.ms = .issue) ∧
      (t.div ≠ s.div → t.div = s.arg ∧ s.ph = .init ∧ s.ms = .load) ∧
      ((t.opc, t.dev, t.reg, t.arg) ≠ (s.opc, s.dev, s.reg, s.arg) →
        s.ph = .idle ∧ ∃ w l, s.inputs = .host (.write 0x000#10 w) :: l) ∧
      (t.result ≠ s.result → s.ph ≠ .idle ∧ t.ph = .idle ∧ t.valid = true))

/-- The frame of every instruction over memory (42_transactions.md R196 to R199, 41_phase_sequencer.md R158): outside the
`FETCH` micro-step every cell reads as before; in it, every cell but `BUF[IDX]`, and with `OPC` = `READ_BYTE` that
one too. -/
def Obligations.InstructionsLeaveMemory : Prop :=
  ∀ (i : Instr) (s t : State), exec i s = .next t →
    (s.ms ≠ .fetch → ∀ a, Memory.read t.buf a = Memory.read s.buf a) ∧
    (s.ms = .fetch → ∀ a, a ≠ s.idx.toNat ∨ s.opc = .readByte → Memory.read t.buf a = Memory.read s.buf a)

/-- The frame of every instruction over the registers (10_state.md R46): no instruction writes a parameter, an input or
`h_rdata`; a phase action writes none of `DIV`, the command latch, `CMDERR` or `EN`, and `RDATA` only in `FETCH`;
a command writes none of `EN`, `DIV`, `TCNT`, `OWN`, `RESULT`, `RDATA`, the facade or the history; `ENABLE` writes none
of `DIV`, the command latch, `IDX`, `TCNT`, `CMDERR` or `RDATA`. That `h_rdata` keeps the last word read is no rule of the
spec but the model's choice (log 8), and so are the inputs, answers, history, count of free values and facade registers
as held (log 2, log 3, log 6, log 7); that the parameters are fields no instruction writes is log 1. -/
def Obligations.InstructionsLeaveRegisters : Prop :=
  ∀ (i : Instr) (s t : State), exec i s = .next t →
    t.params = s.params ∧ t.inputs = s.inputs ∧ t.hrdata = s.hrdata ∧ t.div = s.div ∧
    (commandFields? i = none →
      t.opc = s.opc ∧ t.dev = s.dev ∧ t.reg = s.reg ∧ t.arg = s.arg ∧ t.cmderr = s.cmderr ∧
      (i ≠ .enable → t.en = s.en) ∧
      (i = .enable → t.idx = s.idx ∧ t.tcnt = s.tcnt ∧ t.answers = s.answers) ∧
      (s.ms ≠ .fetch → t.rdata = s.rdata) ∧
      (t.ph ≠ .idle → t.result = s.result ∧ t.valid = s.valid)) ∧
    ((∃ f, commandFields? i = some f) →
      t.en = s.en ∧ t.tcnt = s.tcnt ∧ t.own = s.own ∧ t.result = s.result ∧ t.rdata = s.rdata ∧
      t.facade = s.facade ∧ t.history = s.history ∧ t.answers = s.answers ∧ t.freeNext = s.freeNext)

/-! ### Reset and the host port -/

/-- 70_reset_and_hazards.md R261: the reset state, element by element, what the host reads of it, and that the
sequencer does nothing in it. -/
def Obligations.ResetStateIsTheTable : Prop :=
  (State.reset.en = false ∧ State.reset.div = 0 ∧ State.reset.opc.code = 0 ∧ State.reset.dev = 0 ∧
    State.reset.reg = 0 ∧ State.reset.arg = 0 ∧ State.reset.ph = .idle ∧ State.reset.ms = .load ∧
    State.reset.idx = 0 ∧ State.reset.tcnt = 0 ∧ State.reset.own = false ∧ State.reset.result.code = 0 ∧
    State.reset.valid = false ∧ State.reset.cmderr = false ∧ State.reset.rdata = 0) ∧
  (∀ i, Memory.read State.reset.buf i = none) ∧
  (cmdReg State.reset = 0 ∧ statusReg State.reset = 0 ∧ rdataReg State.reset = 0 ∧ seqReg State.reset = 0 ∧
    divrReg State.reset = 0) ∧
  (∀ i : Byte, ∃ t, hostAccess (.read (0x100#10 + i.setWidth 10)) State.reset = .next t ∧
    t.hrdata.extractLsb' 8 24 = 0) ∧
  sequencerStep State.reset = .next State.reset

/-- 70_reset_and_hazards.md R260: a cycle with `rst` = 1 sets every element to its reset value, `BUF` without values
again, makes no facade access (so no stop word, even inside a transaction), drops a write and answers a read with 0. What it
leaves in the model's own fields, in the facade's registers and in `h_rdata` without a read is the model's choice (log 6,
log 7, log 8). -/
def Obligations.ResetCycleAbandonsEverything : Prop :=
  ∀ (s : State) (a : Option HostAccess) (l : List Input), s.inputs = .rst a :: l →
    ∃ t, step s = .next t ∧ t.history = s.history ∧ t.facade = s.facade ∧ t.params = s.params ∧
      t.inputs = l ∧ t.answers = s.answers ∧
      ((∃ x, a = some (.read x)) → t.hrdata = 0) ∧ ((¬∃ x, a = some (.read x)) → t.hrdata = s.hrdata) ∧
      t = { State.reset with
        facade := t.facade, hrdata := t.hrdata, params := t.params, history := t.history, inputs := t.inputs,
        answers := t.answers, freeNext := s.freeNext }

/-- 10_state.md R38: the `STATUS` register, bit by bit; a read has no side effect, a write does nothing, and after reset
it reads 0. -/
def Obligations.StatusShowsTheFlags : Prop :=
  (∀ s : State, ∃ v : Word,
    hostAccess (.read 0x001#10) s = .next { s with hrdata := v } ∧
    v.getLsbD 0 = (s.ph != .idle) ∧ v.getLsbD 1 = s.valid ∧ v.extractLsb' 2 2 = s.result.code ∧
    v.getLsbD 4 = s.cmderr ∧ v.getLsbD 5 = s.own ∧ v.getLsbD 6 = s.en ∧ v.extractLsb' 7 25 = 0 ∧
    ∀ w, hostAccess (.write 0x001#10 w) s = .next s) ∧
  hostAccess (.read 0x001#10) State.reset = .next { State.reset with hrdata := 0 }

/-- 10_state.md R40: the `SEQ` register, field by field; a read has no side effect, a write does nothing, and after reset
it reads 0. -/
def Obligations.SeqShowsThePosition : Prop :=
  (∀ s : State, ∃ v : Word,
    hostAccess (.read 0x003#10) s = .next { s with hrdata := v } ∧
    v.extractLsb' 0 4 = s.ph.code ∧ v.extractLsb' 4 2 = s.ms.code ∧ v.extractLsb' 6 2 = 0 ∧
    v.extractLsb' 8 8 = s.idx ∧ v.extractLsb' 16 16 = 0 ∧
    ∀ w, hostAccess (.write 0x003#10 w) s = .next s) ∧
  hostAccess (.read 0x003#10) State.reset = .next { State.reset with hrdata := 0 }

/-- 10_state.md R39, R41: `RDATA` and `DIVR` in bits 7:0, bits 31:8 zero; reads have no side effect, writes do nothing. -/
def Obligations.RdataAndDivrReadAsBytes : Prop :=
  ∀ s : State, ∃ v v' : Word,
    hostAccess (.read 0x002#10) s = .next { s with hrdata := v } ∧
    v.extractLsb' 0 8 = s.rdata ∧ v.extractLsb' 8 24 = 0 ∧
    hostAccess (.read 0x004#10) s = .next { s with hrdata := v' } ∧
    v'.extractLsb' 0 8 = s.div ∧ v'.extractLsb' 8 24 = 0 ∧
    ∀ w, hostAccess (.write 0x002#10 w) s = .next s ∧ hostAccess (.write 0x004#10 w) s = .next s

/-- 10_state.md R42, 70_reset_and_hazards.md R267: the buffer window while idle and while busy. A read of a cell never
written gives any value in bits 7:0 (the model's choice of form, log 4). -/
def Obligations.BufferWindow : Prop :=
  ∀ (s : State) (i : Byte) (w : Word),
    (s.ph = .idle →
      (∃ t, hostAccess (.read (0x100#10 + i.setWidth 10)) s = .next t ∧
        (∀ b, Memory.read s.buf i.toNat = some b →
          t = { s with hrdata := t.hrdata } ∧ t.hrdata.extractLsb' 0 8 = b) ∧
        t.hrdata.extractLsb' 8 24 = 0 ∧ t = { s with hrdata := t.hrdata, freeNext := t.freeNext }) ∧
      (∃ t, hostAccess (.write (0x100#10 + i.setWidth 10) w) s = .next t ∧ t = { s with buf := t.buf } ∧
        ∀ a, Memory.read t.buf a = if a = i.toNat then some (w.extractLsb' 0 8) else Memory.read s.buf a)) ∧
    (s.ph ≠ .idle →
      hostAccess (.read (0x100#10 + i.setWidth 10)) s = .fault .hostReentry ∧
      hostAccess (.write (0x100#10 + i.setWidth 10) w) s = .fault .hostReentry)

/-- 10_state.md R43: an unmapped index reads 0; a write to it, or to a read-only register, changes nothing. -/
def Obligations.UnmappedAndReadOnlyIndices : Prop :=
  ∀ (s : State) (a : HostIndex) (w : Word),
    ((0x005 ≤ a.toNat ∧ a.toNat ≤ 0x0FF) ∨ 0x200 ≤ a.toNat →
      hostAccess (.read a) s = .next { s with hrdata := 0 } ∧ hostAccess (.write a w) s = .next s) ∧
    (1 ≤ a.toNat ∧ a.toNat ≤ 4 → hostAccess (.write a w) s = .next s)
end

