-- ==== Sys2Proof/Laws/Buffer.lean ====
section
/-! SUPPORT. The buffer: read after write, and that a write keeps the canonical form. -/

namespace Sys2Proof.Machine

@[simp] theorem Memory.read_nil (i : Nat) : Memory.read [] i = none := rfl

@[simp] theorem Memory.read_write_same (m : Memory) (i : Nat) (v : Byte) :
    Memory.read (Memory.write m i v) i = some v := by
  induction m with
  | nil => simp [Memory.write, Memory.read]
  | cons c m ih =>
    obtain ⟨j, w⟩ := c
    unfold Memory.write
    split
    · simp [Memory.read]
    · split
      · simp [Memory.read]
      · rename_i h; simp [Memory.read, h, ih]

theorem Memory.read_write_other (m : Memory) {i k : Nat} (v : Byte) (h : k ≠ i) :
    Memory.read (Memory.write m i v) k = Memory.read m k := by
  induction m with
  | nil => simp [Memory.write, Memory.read, h]
  | cons c m ih =>
    obtain ⟨j, w⟩ := c
    unfold Memory.write
    split
    · simp [Memory.read, h]
    · split
      · rename_i hij; subst hij; simp [Memory.read, h]
      · simp [Memory.read, ih]

/-- The two cases of a read after a write. -/
theorem Memory.read_write (m : Memory) (i k : Nat) (v : Byte) :
    Memory.read (Memory.write m i v) k = if k = i then some v else Memory.read m k := by
  split
  · rename_i h; subst h; exact Memory.read_write_same ..
  · rename_i h; exact Memory.read_write_other _ _ h

theorem Memory.wf_nil : Memory.wf [] = true := rfl

/-- The canonical form, as a proposition. -/
theorem Memory.wf_iff (m : Memory) :
    Memory.wf m = true ↔ m.Pairwise (fun c d => c.1 < d.1) ∧ ∀ c ∈ m, c.1 < 256 := by
  simp [Memory.wf]

theorem Memory.mem_write {m : Memory} {i : Nat} {v : Byte} {c : Host.Cell} (h : c ∈ Memory.write m i v) :
    c = (i, v) ∨ c ∈ m := by
  induction m with
  | nil => simpa [Memory.write] using h
  | cons d m ih =>
    obtain ⟨j, w⟩ := d
    unfold Memory.write at h
    split at h
    · simpa using h
    · split at h
      · simp only [List.mem_cons] at h ⊢; tauto
      · simp only [List.mem_cons] at h ⊢
        rcases h with h | h
        · exact .inr (.inl h)
        · rcases ih h with h | h <;> tauto

theorem Memory.pairwise_write {m : Memory} (i : Nat) (v : Byte) (h : m.Pairwise fun c d => c.1 < d.1) :
    (Memory.write m i v).Pairwise fun c d => c.1 < d.1 := by
  induction m with
  | nil => simp [Memory.write]
  | cons d m ih =>
    obtain ⟨j, w⟩ := d
    obtain ⟨hd, hm⟩ := List.pairwise_cons.1 h
    unfold Memory.write
    split
    · rename_i hij
      refine List.pairwise_cons.2 ⟨fun c hc => ?_, h⟩
      rcases List.mem_cons.1 hc with rfl | hc
      · exact hij
      · exact Nat.lt_trans hij (hd c hc)
    · split
      · rename_i hij
        exact List.pairwise_cons.2 ⟨fun c hc => by have := hd c hc; simp_all, hm⟩
      · refine List.pairwise_cons.2 ⟨fun c hc => ?_, ih hm⟩
        rcases Memory.mem_write hc with rfl | hc
        · simp only; omega
        · exact hd c hc

/-- A write of a cell of the buffer keeps the canonical form. -/
theorem Memory.wf_write {m : Memory} {i : Nat} (v : Byte) (hi : i < 256) (h : Memory.wf m = true) :
    Memory.wf (Memory.write m i v) = true := by
  rw [Memory.wf_iff] at h ⊢
  refine ⟨Memory.pairwise_write i v h.1, fun c hc => ?_⟩
  rcases Memory.mem_write hc with rfl | hc
  · exact hi
  · exact h.2 c hc

/-- Every index the machine writes is a byte, so a write keeps the canonical form. -/
theorem Memory.wf_write_byte {m : Memory} (i v : Byte) (h : Memory.wf m = true) :
    Memory.wf (Memory.write m i.toNat v) = true := Memory.wf_write v i.isLt h

end Sys2Proof.Machine
end

