-- ==== Sys2Proof/Laws/Encoding.lean ====
section
/-! SUPPORT. The fields of an assembled command word, and what the masks of 30_encoding.md R114 leave of it. -/

namespace Sys2Proof

theorem argField_commandWord (opc : BitVec 4) (dev : DevAddr) (reg arg : Byte) :
    argField (commandWord opc dev reg arg) = arg := by
  apply BitVec.eq_of_getLsbD_eq; intro i hi
  unfold argField commandWord
  simp only [BitVec.getLsbD_extractLsb', BitVec.getLsbD_append]
  simp [hi]

theorem devField_commandWord (opc : BitVec 4) (dev : DevAddr) (reg arg : Byte) :
    devField (commandWord opc dev reg arg) = dev := by
  apply BitVec.eq_of_getLsbD_eq; intro i hi
  unfold devField commandWord
  simp only [BitVec.getLsbD_extractLsb', BitVec.getLsbD_append]
  interval_cases i <;> simp

theorem regField_commandWord (opc : BitVec 4) (dev : DevAddr) (reg arg : Byte) :
    regField (commandWord opc dev reg arg) = reg := by
  apply BitVec.eq_of_getLsbD_eq; intro i hi
  unfold regField commandWord
  simp only [BitVec.getLsbD_extractLsb', BitVec.getLsbD_append]
  interval_cases i <;> simp

theorem opcField_commandWord (opc : BitVec 4) (dev : DevAddr) (reg arg : Byte) :
    opcField (commandWord opc dev reg arg) = opc := by
  apply BitVec.eq_of_getLsbD_eq; intro i hi
  unfold opcField commandWord
  simp only [BitVec.getLsbD_extractLsb', BitVec.getLsbD_append]
  interval_cases i <;> simp

/-- The mask of `WRITE_BYTE`, `WRITE_BYTES` and `READ_BYTES` leaves the opcode. -/
theorem commandWord_and_mask (opc : BitVec 4) (dev : DevAddr) (reg arg : Byte) :
    commandWord opc dev reg arg &&& 0xF8000F00#32 = commandWord opc 0 0 0 := by
  apply BitVec.eq_of_getLsbD_eq; intro i hi
  unfold commandWord
  simp only [BitVec.getLsbD_and, BitVec.getLsbD_append]
  interval_cases i <;> simp

/-- The mask of `READ_BYTE` leaves the opcode and `ARG`. -/
theorem commandWord_and_readByteMask (opc : BitVec 4) (dev : DevAddr) (reg arg : Byte) :
    commandWord opc dev reg arg &&& 0xF8000FFF#32 = commandWord opc 0 0 arg := by
  apply BitVec.eq_of_getLsbD_eq; intro i hi
  unfold commandWord
  simp only [BitVec.getLsbD_and, BitVec.getLsbD_append]
  interval_cases i <;> simp

/-- The mask of `INIT` leaves everything but `ARG`. -/
theorem commandWord_and_initMask (opc : BitVec 4) (dev : DevAddr) (reg arg : Byte) :
    commandWord opc dev reg arg &&& 0xFFFFFF00#32 = commandWord opc dev reg 0 := by
  apply BitVec.eq_of_getLsbD_eq; intro i hi
  unfold commandWord
  simp only [BitVec.getLsbD_and, BitVec.getLsbD_append]
  interval_cases i <;> simp

end Sys2Proof
end

