-- ==== Sys2Proof/Laws/State.lean ====
section
/-! SUPPORT. One lemma per field per update: what each shared operation leaves in each field of the state. -/

namespace Sys2Proof.Machine

/-! ### `facWrite` -/

@[simp] theorem facWrite_en (r : FacReg) (v : Byte) (s : State) : (facWrite r v s).en = s.en := rfl
@[simp] theorem facWrite_div (r : FacReg) (v : Byte) (s : State) : (facWrite r v s).div = s.div := rfl
@[simp] theorem facWrite_opc (r : FacReg) (v : Byte) (s : State) : (facWrite r v s).opc = s.opc := rfl
@[simp] theorem facWrite_dev (r : FacReg) (v : Byte) (s : State) : (facWrite r v s).dev = s.dev := rfl
@[simp] theorem facWrite_reg (r : FacReg) (v : Byte) (s : State) : (facWrite r v s).reg = s.reg := rfl
@[simp] theorem facWrite_arg (r : FacReg) (v : Byte) (s : State) : (facWrite r v s).arg = s.arg := rfl
@[simp] theorem facWrite_ph (r : FacReg) (v : Byte) (s : State) : (facWrite r v s).ph = s.ph := rfl
@[simp] theorem facWrite_ms (r : FacReg) (v : Byte) (s : State) : (facWrite r v s).ms = s.ms := rfl
@[simp] theorem facWrite_idx (r : FacReg) (v : Byte) (s : State) : (facWrite r v s).idx = s.idx := rfl
@[simp] theorem facWrite_tcnt (r : FacReg) (v : Byte) (s : State) : (facWrite r v s).tcnt = s.tcnt := rfl
@[simp] theorem facWrite_own (r : FacReg) (v : Byte) (s : State) : (facWrite r v s).own = s.own := rfl
@[simp] theorem facWrite_result (r : FacReg) (v : Byte) (s : State) : (facWrite r v s).result = s.result := rfl
@[simp] theorem facWrite_valid (r : FacReg) (v : Byte) (s : State) : (facWrite r v s).valid = s.valid := rfl
@[simp] theorem facWrite_cmderr (r : FacReg) (v : Byte) (s : State) : (facWrite r v s).cmderr = s.cmderr := rfl
@[simp] theorem facWrite_rdata (r : FacReg) (v : Byte) (s : State) : (facWrite r v s).rdata = s.rdata := rfl
@[simp] theorem facWrite_buf (r : FacReg) (v : Byte) (s : State) : (facWrite r v s).buf = s.buf := rfl
@[simp] theorem facWrite_facade (r : FacReg) (v : Byte) (s : State) : (facWrite r v s).facade = s.facade.store r v := rfl
@[simp] theorem facWrite_hrdata (r : FacReg) (v : Byte) (s : State) : (facWrite r v s).hrdata = s.hrdata := rfl
@[simp] theorem facWrite_params (r : FacReg) (v : Byte) (s : State) : (facWrite r v s).params = s.params := rfl
@[simp] theorem facWrite_history (r : FacReg) (v : Byte) (s : State) : (facWrite r v s).history = .write r v :: s.history := rfl
@[simp] theorem facWrite_inputs (r : FacReg) (v : Byte) (s : State) : (facWrite r v s).inputs = s.inputs := rfl
@[simp] theorem facWrite_answers (r : FacReg) (v : Byte) (s : State) : (facWrite r v s).answers = s.answers := rfl
@[simp] theorem facWrite_freeNext (r : FacReg) (v : Byte) (s : State) : (facWrite r v s).freeNext = s.freeNext := rfl

/-! ### `facRead` -/

@[simp] theorem facRead_en (r : FacReg) (s : State) : (facRead r s).en = s.en := rfl
@[simp] theorem facRead_div (r : FacReg) (s : State) : (facRead r s).div = s.div := rfl
@[simp] theorem facRead_opc (r : FacReg) (s : State) : (facRead r s).opc = s.opc := rfl
@[simp] theorem facRead_dev (r : FacReg) (s : State) : (facRead r s).dev = s.dev := rfl
@[simp] theorem facRead_reg (r : FacReg) (s : State) : (facRead r s).reg = s.reg := rfl
@[simp] theorem facRead_arg (r : FacReg) (s : State) : (facRead r s).arg = s.arg := rfl
@[simp] theorem facRead_ph (r : FacReg) (s : State) : (facRead r s).ph = s.ph := rfl
@[simp] theorem facRead_ms (r : FacReg) (s : State) : (facRead r s).ms = s.ms := rfl
@[simp] theorem facRead_idx (r : FacReg) (s : State) : (facRead r s).idx = s.idx := rfl
@[simp] theorem facRead_tcnt (r : FacReg) (s : State) : (facRead r s).tcnt = s.tcnt := rfl
@[simp] theorem facRead_own (r : FacReg) (s : State) : (facRead r s).own = s.own := rfl
@[simp] theorem facRead_result (r : FacReg) (s : State) : (facRead r s).result = s.result := rfl
@[simp] theorem facRead_valid (r : FacReg) (s : State) : (facRead r s).valid = s.valid := rfl
@[simp] theorem facRead_cmderr (r : FacReg) (s : State) : (facRead r s).cmderr = s.cmderr := rfl
@[simp] theorem facRead_rdata (r : FacReg) (s : State) : (facRead r s).rdata = s.rdata := rfl
@[simp] theorem facRead_buf (r : FacReg) (s : State) : (facRead r s).buf = s.buf := rfl
@[simp] theorem facRead_facade (r : FacReg) (s : State) : (facRead r s).facade = s.facade.observe r (facAnswer s) := rfl
@[simp] theorem facRead_hrdata (r : FacReg) (s : State) : (facRead r s).hrdata = s.hrdata := rfl
@[simp] theorem facRead_params (r : FacReg) (s : State) : (facRead r s).params = s.params := rfl
@[simp] theorem facRead_history (r : FacReg) (s : State) : (facRead r s).history = .read r (facAnswer s) :: s.history := rfl
@[simp] theorem facRead_inputs (r : FacReg) (s : State) : (facRead r s).inputs = s.inputs := rfl
@[simp] theorem facRead_answers (r : FacReg) (s : State) : (facRead r s).answers = s.answers.tail := rfl
@[simp] theorem facRead_freeNext (r : FacReg) (s : State) : (facRead r s).freeNext = if s.answers.isEmpty then s.freeNext + 1 else s.freeNext := rfl

/-! ### `enter` -/

@[simp] theorem enter_en (p : Phase) (s : State) : (enter p s).en = s.en := rfl
@[simp] theorem enter_div (p : Phase) (s : State) : (enter p s).div = s.div := rfl
@[simp] theorem enter_opc (p : Phase) (s : State) : (enter p s).opc = s.opc := rfl
@[simp] theorem enter_dev (p : Phase) (s : State) : (enter p s).dev = s.dev := rfl
@[simp] theorem enter_reg (p : Phase) (s : State) : (enter p s).reg = s.reg := rfl
@[simp] theorem enter_arg (p : Phase) (s : State) : (enter p s).arg = s.arg := rfl
@[simp] theorem enter_ph (p : Phase) (s : State) : (enter p s).ph = p := rfl
@[simp] theorem enter_ms (p : Phase) (s : State) : (enter p s).ms = firstMicroStep p := rfl
@[simp] theorem enter_idx (p : Phase) (s : State) : (enter p s).idx = s.idx := rfl
@[simp] theorem enter_tcnt (p : Phase) (s : State) : (enter p s).tcnt = s.tcnt := rfl
@[simp] theorem enter_own (p : Phase) (s : State) : (enter p s).own = s.own := rfl
@[simp] theorem enter_result (p : Phase) (s : State) : (enter p s).result = s.result := rfl
@[simp] theorem enter_valid (p : Phase) (s : State) : (enter p s).valid = s.valid := rfl
@[simp] theorem enter_cmderr (p : Phase) (s : State) : (enter p s).cmderr = s.cmderr := rfl
@[simp] theorem enter_rdata (p : Phase) (s : State) : (enter p s).rdata = s.rdata := rfl
@[simp] theorem enter_buf (p : Phase) (s : State) : (enter p s).buf = s.buf := rfl
@[simp] theorem enter_facade (p : Phase) (s : State) : (enter p s).facade = s.facade := rfl
@[simp] theorem enter_hrdata (p : Phase) (s : State) : (enter p s).hrdata = s.hrdata := rfl
@[simp] theorem enter_params (p : Phase) (s : State) : (enter p s).params = s.params := rfl
@[simp] theorem enter_history (p : Phase) (s : State) : (enter p s).history = s.history := rfl
@[simp] theorem enter_inputs (p : Phase) (s : State) : (enter p s).inputs = s.inputs := rfl
@[simp] theorem enter_answers (p : Phase) (s : State) : (enter p s).answers = s.answers := rfl
@[simp] theorem enter_freeNext (p : Phase) (s : State) : (enter p s).freeNext = s.freeNext := rfl

/-! ### `finish` -/

@[simp] theorem finish_en (c : Status) (s : State) : (finish c s).en = s.en := rfl
@[simp] theorem finish_div (c : Status) (s : State) : (finish c s).div = s.div := rfl
@[simp] theorem finish_opc (c : Status) (s : State) : (finish c s).opc = s.opc := rfl
@[simp] theorem finish_dev (c : Status) (s : State) : (finish c s).dev = s.dev := rfl
@[simp] theorem finish_reg (c : Status) (s : State) : (finish c s).reg = s.reg := rfl
@[simp] theorem finish_arg (c : Status) (s : State) : (finish c s).arg = s.arg := rfl
@[simp] theorem finish_ph (c : Status) (s : State) : (finish c s).ph = .idle := rfl
@[simp] theorem finish_ms (c : Status) (s : State) : (finish c s).ms = .load := rfl
@[simp] theorem finish_idx (c : Status) (s : State) : (finish c s).idx = s.idx := rfl
@[simp] theorem finish_tcnt (c : Status) (s : State) : (finish c s).tcnt = s.tcnt := rfl
@[simp] theorem finish_own (c : Status) (s : State) : (finish c s).own = false := rfl
@[simp] theorem finish_result (c : Status) (s : State) : (finish c s).result = c := rfl
@[simp] theorem finish_valid (c : Status) (s : State) : (finish c s).valid = true := rfl
@[simp] theorem finish_cmderr (c : Status) (s : State) : (finish c s).cmderr = s.cmderr := rfl
@[simp] theorem finish_rdata (c : Status) (s : State) : (finish c s).rdata = s.rdata := rfl
@[simp] theorem finish_buf (c : Status) (s : State) : (finish c s).buf = s.buf := rfl
@[simp] theorem finish_facade (c : Status) (s : State) : (finish c s).facade = s.facade := rfl
@[simp] theorem finish_hrdata (c : Status) (s : State) : (finish c s).hrdata = s.hrdata := rfl
@[simp] theorem finish_params (c : Status) (s : State) : (finish c s).params = s.params := rfl
@[simp] theorem finish_history (c : Status) (s : State) : (finish c s).history = s.history := rfl
@[simp] theorem finish_inputs (c : Status) (s : State) : (finish c s).inputs = s.inputs := rfl
@[simp] theorem finish_answers (c : Status) (s : State) : (finish c s).answers = s.answers := rfl
@[simp] theorem finish_freeNext (c : Status) (s : State) : (finish c s).freeNext = s.freeNext := rfl

/-! ### `acceptCommand` -/

@[simp] theorem acceptCommand_en (o : Opcode) (d : DevAddr) (r a : Byte) (s : State) : (acceptCommand o d r a s).en = s.en := rfl
@[simp] theorem acceptCommand_div (o : Opcode) (d : DevAddr) (r a : Byte) (s : State) : (acceptCommand o d r a s).div = s.div := rfl
@[simp] theorem acceptCommand_opc (o : Opcode) (d : DevAddr) (r a : Byte) (s : State) : (acceptCommand o d r a s).opc = o := rfl
@[simp] theorem acceptCommand_dev (o : Opcode) (d : DevAddr) (r a : Byte) (s : State) : (acceptCommand o d r a s).dev = d := rfl
@[simp] theorem acceptCommand_reg (o : Opcode) (d : DevAddr) (r a : Byte) (s : State) : (acceptCommand o d r a s).reg = r := rfl
@[simp] theorem acceptCommand_arg (o : Opcode) (d : DevAddr) (r a : Byte) (s : State) : (acceptCommand o d r a s).arg = a := rfl
@[simp] theorem acceptCommand_ph (o : Opcode) (d : DevAddr) (r a : Byte) (s : State) : (acceptCommand o d r a s).ph = if o = .init then .init else .start := rfl
@[simp] theorem acceptCommand_ms (o : Opcode) (d : DevAddr) (r a : Byte) (s : State) : (acceptCommand o d r a s).ms = firstMicroStep (if o = .init then .init else .start) := rfl
@[simp] theorem acceptCommand_idx (o : Opcode) (d : DevAddr) (r a : Byte) (s : State) : (acceptCommand o d r a s).idx = 0 := rfl
@[simp] theorem acceptCommand_tcnt (o : Opcode) (d : DevAddr) (r a : Byte) (s : State) : (acceptCommand o d r a s).tcnt = s.tcnt := rfl
@[simp] theorem acceptCommand_own (o : Opcode) (d : DevAddr) (r a : Byte) (s : State) : (acceptCommand o d r a s).own = s.own := rfl
@[simp] theorem acceptCommand_result (o : Opcode) (d : DevAddr) (r a : Byte) (s : State) : (acceptCommand o d r a s).result = s.result := rfl
@[simp] theorem acceptCommand_valid (o : Opcode) (d : DevAddr) (r a : Byte) (s : State) : (acceptCommand o d r a s).valid = false := rfl
@[simp] theorem acceptCommand_cmderr (o : Opcode) (d : DevAddr) (r a : Byte) (s : State) : (acceptCommand o d r a s).cmderr = false := rfl
@[simp] theorem acceptCommand_rdata (o : Opcode) (d : DevAddr) (r a : Byte) (s : State) : (acceptCommand o d r a s).rdata = s.rdata := rfl
@[simp] theorem acceptCommand_buf (o : Opcode) (d : DevAddr) (r a : Byte) (s : State) : (acceptCommand o d r a s).buf = s.buf := rfl
@[simp] theorem acceptCommand_facade (o : Opcode) (d : DevAddr) (r a : Byte) (s : State) : (acceptCommand o d r a s).facade = s.facade := rfl
@[simp] theorem acceptCommand_hrdata (o : Opcode) (d : DevAddr) (r a : Byte) (s : State) : (acceptCommand o d r a s).hrdata = s.hrdata := rfl
@[simp] theorem acceptCommand_params (o : Opcode) (d : DevAddr) (r a : Byte) (s : State) : (acceptCommand o d r a s).params = s.params := rfl
@[simp] theorem acceptCommand_history (o : Opcode) (d : DevAddr) (r a : Byte) (s : State) : (acceptCommand o d r a s).history = s.history := rfl
@[simp] theorem acceptCommand_inputs (o : Opcode) (d : DevAddr) (r a : Byte) (s : State) : (acceptCommand o d r a s).inputs = s.inputs := rfl
@[simp] theorem acceptCommand_answers (o : Opcode) (d : DevAddr) (r a : Byte) (s : State) : (acceptCommand o d r a s).answers = s.answers := rfl
@[simp] theorem acceptCommand_freeNext (o : Opcode) (d : DevAddr) (r a : Byte) (s : State) : (acceptCommand o d r a s).freeNext = s.freeNext := rfl

/-! ### `refuseCommand` -/

@[simp] theorem refuseCommand_en (s : State) : (refuseCommand s).en = s.en := rfl
@[simp] theorem refuseCommand_div (s : State) : (refuseCommand s).div = s.div := rfl
@[simp] theorem refuseCommand_opc (s : State) : (refuseCommand s).opc = s.opc := rfl
@[simp] theorem refuseCommand_dev (s : State) : (refuseCommand s).dev = s.dev := rfl
@[simp] theorem refuseCommand_reg (s : State) : (refuseCommand s).reg = s.reg := rfl
@[simp] theorem refuseCommand_arg (s : State) : (refuseCommand s).arg = s.arg := rfl
@[simp] theorem refuseCommand_ph (s : State) : (refuseCommand s).ph = s.ph := rfl
@[simp] theorem refuseCommand_ms (s : State) : (refuseCommand s).ms = s.ms := rfl
@[simp] theorem refuseCommand_idx (s : State) : (refuseCommand s).idx = s.idx := rfl
@[simp] theorem refuseCommand_tcnt (s : State) : (refuseCommand s).tcnt = s.tcnt := rfl
@[simp] theorem refuseCommand_own (s : State) : (refuseCommand s).own = s.own := rfl
@[simp] theorem refuseCommand_result (s : State) : (refuseCommand s).result = s.result := rfl
@[simp] theorem refuseCommand_valid (s : State) : (refuseCommand s).valid = s.valid := rfl
@[simp] theorem refuseCommand_cmderr (s : State) : (refuseCommand s).cmderr = true := rfl
@[simp] theorem refuseCommand_rdata (s : State) : (refuseCommand s).rdata = s.rdata := rfl
@[simp] theorem refuseCommand_buf (s : State) : (refuseCommand s).buf = s.buf := rfl
@[simp] theorem refuseCommand_facade (s : State) : (refuseCommand s).facade = s.facade := rfl
@[simp] theorem refuseCommand_hrdata (s : State) : (refuseCommand s).hrdata = s.hrdata := rfl
@[simp] theorem refuseCommand_params (s : State) : (refuseCommand s).params = s.params := rfl
@[simp] theorem refuseCommand_history (s : State) : (refuseCommand s).history = s.history := rfl
@[simp] theorem refuseCommand_inputs (s : State) : (refuseCommand s).inputs = s.inputs := rfl
@[simp] theorem refuseCommand_answers (s : State) : (refuseCommand s).answers = s.answers := rfl
@[simp] theorem refuseCommand_freeNext (s : State) : (refuseCommand s).freeNext = s.freeNext := rfl

/-! ### `configureDivisor` -/

@[simp] theorem configureDivisor_en (s : State) : (configureDivisor s).en = s.en := rfl
@[simp] theorem configureDivisor_div (s : State) : (configureDivisor s).div = s.arg := rfl
@[simp] theorem configureDivisor_opc (s : State) : (configureDivisor s).opc = s.opc := rfl
@[simp] theorem configureDivisor_dev (s : State) : (configureDivisor s).dev = s.dev := rfl
@[simp] theorem configureDivisor_reg (s : State) : (configureDivisor s).reg = s.reg := rfl
@[simp] theorem configureDivisor_arg (s : State) : (configureDivisor s).arg = s.arg := rfl
@[simp] theorem configureDivisor_ph (s : State) : (configureDivisor s).ph = s.ph := rfl
@[simp] theorem configureDivisor_ms (s : State) : (configureDivisor s).ms = .issue := rfl
@[simp] theorem configureDivisor_idx (s : State) : (configureDivisor s).idx = s.idx := rfl
@[simp] theorem configureDivisor_tcnt (s : State) : (configureDivisor s).tcnt = s.tcnt := rfl
@[simp] theorem configureDivisor_own (s : State) : (configureDivisor s).own = s.own := rfl
@[simp] theorem configureDivisor_result (s : State) : (configureDivisor s).result = s.result := rfl
@[simp] theorem configureDivisor_valid (s : State) : (configureDivisor s).valid = s.valid := rfl
@[simp] theorem configureDivisor_cmderr (s : State) : (configureDivisor s).cmderr = s.cmderr := rfl
@[simp] theorem configureDivisor_rdata (s : State) : (configureDivisor s).rdata = s.rdata := rfl
@[simp] theorem configureDivisor_buf (s : State) : (configureDivisor s).buf = s.buf := rfl
@[simp] theorem configureDivisor_facade (s : State) : (configureDivisor s).facade = s.facade.store .baud s.arg := rfl
@[simp] theorem configureDivisor_hrdata (s : State) : (configureDivisor s).hrdata = s.hrdata := rfl
@[simp] theorem configureDivisor_params (s : State) : (configureDivisor s).params = s.params := rfl
@[simp] theorem configureDivisor_history (s : State) : (configureDivisor s).history = .write .baud s.arg :: s.history := rfl
@[simp] theorem configureDivisor_inputs (s : State) : (configureDivisor s).inputs = s.inputs := rfl
@[simp] theorem configureDivisor_answers (s : State) : (configureDivisor s).answers = s.answers := rfl
@[simp] theorem configureDivisor_freeNext (s : State) : (configureDivisor s).freeNext = s.freeNext := rfl

/-! ### `issueWord` -/

@[simp] theorem issueWord_en (b : Byte) (e : Bool) (s : State) : (issueWord b e s).en = s.en := rfl
@[simp] theorem issueWord_div (b : Byte) (e : Bool) (s : State) : (issueWord b e s).div = s.div := rfl
@[simp] theorem issueWord_opc (b : Byte) (e : Bool) (s : State) : (issueWord b e s).opc = s.opc := rfl
@[simp] theorem issueWord_dev (b : Byte) (e : Bool) (s : State) : (issueWord b e s).dev = s.dev := rfl
@[simp] theorem issueWord_reg (b : Byte) (e : Bool) (s : State) : (issueWord b e s).reg = s.reg := rfl
@[simp] theorem issueWord_arg (b : Byte) (e : Bool) (s : State) : (issueWord b e s).arg = s.arg := rfl
@[simp] theorem issueWord_ph (b : Byte) (e : Bool) (s : State) : (issueWord b e s).ph = s.ph := rfl
@[simp] theorem issueWord_ms (b : Byte) (e : Bool) (s : State) : (issueWord b e s).ms = .poll := rfl
@[simp] theorem issueWord_idx (b : Byte) (e : Bool) (s : State) : (issueWord b e s).idx = s.idx := rfl
@[simp] theorem issueWord_tcnt (b : Byte) (e : Bool) (s : State) : (issueWord b e s).tcnt = s.params.tmo := rfl
@[simp] theorem issueWord_own (b : Byte) (e : Bool) (s : State) : (issueWord b e s).own = if s.ph = .start then true else s.own := rfl
@[simp] theorem issueWord_result (b : Byte) (e : Bool) (s : State) : (issueWord b e s).result = s.result := rfl
@[simp] theorem issueWord_valid (b : Byte) (e : Bool) (s : State) : (issueWord b e s).valid = s.valid := rfl
@[simp] theorem issueWord_cmderr (b : Byte) (e : Bool) (s : State) : (issueWord b e s).cmderr = s.cmderr := rfl
@[simp] theorem issueWord_rdata (b : Byte) (e : Bool) (s : State) : (issueWord b e s).rdata = s.rdata := rfl
@[simp] theorem issueWord_buf (b : Byte) (e : Bool) (s : State) : (issueWord b e s).buf = s.buf := rfl
@[simp] theorem issueWord_facade (b : Byte) (e : Bool) (s : State) : (issueWord b e s).facade = s.facade.store .ctrl (controlWord b e) := rfl
@[simp] theorem issueWord_hrdata (b : Byte) (e : Bool) (s : State) : (issueWord b e s).hrdata = s.hrdata := rfl
@[simp] theorem issueWord_params (b : Byte) (e : Bool) (s : State) : (issueWord b e s).params = s.params := rfl
@[simp] theorem issueWord_history (b : Byte) (e : Bool) (s : State) : (issueWord b e s).history = .write .ctrl (controlWord b e) :: s.history := rfl
@[simp] theorem issueWord_inputs (b : Byte) (e : Bool) (s : State) : (issueWord b e s).inputs = s.inputs := rfl
@[simp] theorem issueWord_answers (b : Byte) (e : Bool) (s : State) : (issueWord b e s).answers = s.answers := rfl
@[simp] theorem issueWord_freeNext (b : Byte) (e : Bool) (s : State) : (issueWord b e s).freeNext = s.freeNext := rfl

/-! ### `readBufw` -/

@[simp] theorem readBufw_en (i : Byte) (s : State) : (readBufw i s).en = s.en := rfl
@[simp] theorem readBufw_div (i : Byte) (s : State) : (readBufw i s).div = s.div := rfl
@[simp] theorem readBufw_opc (i : Byte) (s : State) : (readBufw i s).opc = s.opc := rfl
@[simp] theorem readBufw_dev (i : Byte) (s : State) : (readBufw i s).dev = s.dev := rfl
@[simp] theorem readBufw_reg (i : Byte) (s : State) : (readBufw i s).reg = s.reg := rfl
@[simp] theorem readBufw_arg (i : Byte) (s : State) : (readBufw i s).arg = s.arg := rfl
@[simp] theorem readBufw_ph (i : Byte) (s : State) : (readBufw i s).ph = s.ph := rfl
@[simp] theorem readBufw_ms (i : Byte) (s : State) : (readBufw i s).ms = s.ms := rfl
@[simp] theorem readBufw_idx (i : Byte) (s : State) : (readBufw i s).idx = s.idx := rfl
@[simp] theorem readBufw_tcnt (i : Byte) (s : State) : (readBufw i s).tcnt = s.tcnt := rfl
@[simp] theorem readBufw_own (i : Byte) (s : State) : (readBufw i s).own = s.own := rfl
@[simp] theorem readBufw_result (i : Byte) (s : State) : (readBufw i s).result = s.result := rfl
@[simp] theorem readBufw_valid (i : Byte) (s : State) : (readBufw i s).valid = s.valid := rfl
@[simp] theorem readBufw_cmderr (i : Byte) (s : State) : (readBufw i s).cmderr = s.cmderr := rfl
@[simp] theorem readBufw_rdata (i : Byte) (s : State) : (readBufw i s).rdata = s.rdata := rfl
@[simp] theorem readBufw_buf (i : Byte) (s : State) : (readBufw i s).buf = s.buf := rfl
@[simp] theorem readBufw_facade (i : Byte) (s : State) : (readBufw i s).facade = s.facade := rfl
@[simp] theorem readBufw_hrdata (i : Byte) (s : State) : (readBufw i s).hrdata = byteWord (bufwByte i s) := rfl
@[simp] theorem readBufw_params (i : Byte) (s : State) : (readBufw i s).params = s.params := rfl
@[simp] theorem readBufw_history (i : Byte) (s : State) : (readBufw i s).history = s.history := rfl
@[simp] theorem readBufw_inputs (i : Byte) (s : State) : (readBufw i s).inputs = s.inputs := rfl
@[simp] theorem readBufw_answers (i : Byte) (s : State) : (readBufw i s).answers = s.answers := rfl
@[simp] theorem readBufw_freeNext (i : Byte) (s : State) : (readBufw i s).freeNext = if Memory.read s.buf i.toNat = none then s.freeNext + 1 else s.freeNext := rfl

/-! ### `resetCycle` -/

@[simp] theorem resetCycle_en (a : Option HostAccess) (s : State) : (resetCycle a s).en = false := rfl
@[simp] theorem resetCycle_div (a : Option HostAccess) (s : State) : (resetCycle a s).div = 0 := rfl
@[simp] theorem resetCycle_opc (a : Option HostAccess) (s : State) : (resetCycle a s).opc = .none := rfl
@[simp] theorem resetCycle_dev (a : Option HostAccess) (s : State) : (resetCycle a s).dev = 0 := rfl
@[simp] theorem resetCycle_reg (a : Option HostAccess) (s : State) : (resetCycle a s).reg = 0 := rfl
@[simp] theorem resetCycle_arg (a : Option HostAccess) (s : State) : (resetCycle a s).arg = 0 := rfl
@[simp] theorem resetCycle_ph (a : Option HostAccess) (s : State) : (resetCycle a s).ph = .idle := rfl
@[simp] theorem resetCycle_ms (a : Option HostAccess) (s : State) : (resetCycle a s).ms = .load := rfl
@[simp] theorem resetCycle_idx (a : Option HostAccess) (s : State) : (resetCycle a s).idx = 0 := rfl
@[simp] theorem resetCycle_tcnt (a : Option HostAccess) (s : State) : (resetCycle a s).tcnt = 0 := rfl
@[simp] theorem resetCycle_own (a : Option HostAccess) (s : State) : (resetCycle a s).own = false := rfl
@[simp] theorem resetCycle_result (a : Option HostAccess) (s : State) : (resetCycle a s).result = .success := rfl
@[simp] theorem resetCycle_valid (a : Option HostAccess) (s : State) : (resetCycle a s).valid = false := rfl
@[simp] theorem resetCycle_cmderr (a : Option HostAccess) (s : State) : (resetCycle a s).cmderr = false := rfl
@[simp] theorem resetCycle_rdata (a : Option HostAccess) (s : State) : (resetCycle a s).rdata = 0 := rfl
@[simp] theorem resetCycle_buf (a : Option HostAccess) (s : State) : (resetCycle a s).buf = [] := rfl
@[simp] theorem resetCycle_facade (a : Option HostAccess) (s : State) : (resetCycle a s).facade = s.facade := rfl
@[simp] theorem resetCycle_params (a : Option HostAccess) (s : State) : (resetCycle a s).params = s.params := rfl
@[simp] theorem resetCycle_history (a : Option HostAccess) (s : State) : (resetCycle a s).history = s.history := rfl
@[simp] theorem resetCycle_inputs (a : Option HostAccess) (s : State) : (resetCycle a s).inputs = s.inputs := rfl
@[simp] theorem resetCycle_answers (a : Option HostAccess) (s : State) : (resetCycle a s).answers = s.answers := rfl
@[simp] theorem resetCycle_freeNext (a : Option HostAccess) (s : State) : (resetCycle a s).freeNext = s.freeNext := rfl
@[simp] theorem resetCycle_hrdata_read (a : HostIndex) (s : State) : (resetCycle (some (.read a)) s).hrdata = 0 := rfl
@[simp] theorem resetCycle_hrdata_write (a : HostIndex) (w : Word) (s : State) : (resetCycle (some (.write a w)) s).hrdata = s.hrdata := rfl
@[simp] theorem resetCycle_hrdata_none (s : State) : (resetCycle none s).hrdata = s.hrdata := rfl

/-! ### The exception and the return from it -/

@[simp] theorem raiseTimeout_eq (s : State) : raiseTimeout s = enter .aborted s := rfl
@[simp] theorem returnFromTimeout_eq (s : State) : returnFromTimeout s = finish .timeout s := rfl

/-! ### What a placed instruction leaves of the rest -/

@[simp] theorem placeCommand_inputs (w : Word) (s : State) : (placeCommand w s).inputs = .host (.write 0x000#10 w) :: s.inputs := rfl
@[simp] theorem placeKey_inputs (i : Instr) (o e : Bool) (s : State) : (placeKey i o e s).inputs = .tick :: s.inputs := rfl
@[simp] theorem placeKey_ms (i : Instr) (o e : Bool) (s : State) : (placeKey i o e s).ms = .issue := rfl
@[simp] theorem placeKey_own (i : Instr) (o e : Bool) (s : State) : (placeKey i o e s).own = o := rfl

end Sys2Proof.Machine
end

