-- ==== Sys2Proof/Laws/Ops.lean ====
section
/-! SUPPORT. One lemma per shared operation that says everything it can do; proofs cite these and do not unfold the
operation again. -/

namespace Sys2Proof.Machine

/-! ### `enter`, the facade port and `POLL` -/

@[simp] theorem firstMicroStep_send {p : Phase} (h : p.isSend = true) : firstMicroStep p = .load := by
  simp [firstMicroStep, h]

@[simp] theorem facAnswer_cons (s : State) (v : Byte) (l : List Byte) : facAnswer { s with answers := v :: l } = v := rfl

theorem facAnswer_of_answers {s : State} {v : Byte} {l : List Byte} (h : s.answers = v :: l) : facAnswer s = v := by
  simp [facAnswer, h]

/-- Everything `expire` can do (60_exceptions.md R236, R239). -/
theorem expire_cases (s : State) :
    (s.ph = .aborted ∧ expire s = finish .timeout s) ∨ (s.ph ≠ .aborted ∧ expire s = enter .aborted s) := by
  unfold expire
  split <;> simp_all

/-- Everything a poll that saw `DONE = 0` can do (41_phase_sequencer.md R156). -/
theorem pollNotDone_cases (s : State) :
    (2 ≤ s.tcnt ∧ pollNotDone s = { s with tcnt := s.tcnt - 1 }) ∨
    (s.tcnt ≤ 1 ∧ s.ph = .aborted ∧ pollNotDone s = finish .timeout { s with tcnt := 0 }) ∨
    (s.tcnt ≤ 1 ∧ s.ph ≠ .aborted ∧ pollNotDone s = enter .aborted { s with tcnt := 0 }) := by
  unfold pollNotDone
  split
  · obtain ⟨h, e⟩ | ⟨h, e⟩ := expire_cases { s with tcnt := 0 }
    · exact .inr (.inl ⟨by omega, h, e⟩)
    · exact .inr (.inr ⟨by omega, h, e⟩)
  · exact .inl ⟨by omega, rfl⟩

/-- Everything `POLL` can do (R156). -/
theorem poll_cases {s t : State} (h : poll s = .next t) :
    (doneFlag (facAnswer s) = true ∧ s.ph.isReceive = true ∧ t = { facRead .stat s with ms := .fetch }) ∨
    (doneFlag (facAnswer s) = true ∧ s.ph.isReceive = false ∧ phaseDone (facRead .stat s) = .next t) ∨
    (doneFlag (facAnswer s) = false ∧ t = pollNotDone (facRead .stat s)) := by
  unfold poll pollDone at h
  split at h
  · rename_i hd
    split at h
    · rename_i hr
      simp only [Host.Outcome.next.injEq] at h
      exact .inl ⟨hd, hr, h.symm⟩
    · rename_i hr
      exact .inr (.inl ⟨hd, by simpa using hr, h⟩)
  · rename_i hd
    simp only [Host.Outcome.next.injEq] at h
    exact .inr (.inr ⟨by simpa using hd, h.symm⟩)

/-- `phase_done()` stops only on a pair the table has no row for. -/
theorem phaseDone_fault {s : State} {f : Fault} (h : phaseDone s = .fault f) : f = .unreachablePair := by
  unfold phaseDone at h
  split at h <;> simp_all
  split at h
  · simp_all
  · split at h <;> simp_all

/-- `phase_done()` never refuses. -/
theorem phaseDone_not_refused {s : State} {r : Refusal} : phaseDone s ≠ .refused r := by
  unfold phaseDone
  split <;> simp
  split
  · simp
  · split <;> simp

/-- In every legal position of a condition or send phase the table has a row. -/
theorem phaseDone_total {s : State} (hp : legalPosition s) (hk : s.ph.isCondition = true ∨ s.ph.isSend = true) :
    ∃ t, phaseDone s = .next t := by
  unfold phaseDone legalPosition dataPhases at *
  cases hph : s.ph <;> cases hopc : s.opc <;>
    simp_all [Phase.isCondition, Phase.isSend, Opcode.isTransaction, Opcode.isRead]
  split
  · simp
  · split
    · simp
    · omega

/-- Everything `phase_done()` can do (42_transactions.md R195): the successor of each phase. -/
theorem phaseDone_cases {s t : State} (h : phaseDone s = .next t) :
    (s.ph = .start ∧ t = enter .addrW s) ∨
    (s.ph = .addrW ∧ t = enter .regAddr s) ∨
    (s.ph = .regAddr ∧ s.opc = .writeByte ∧ t = enter .dataW s) ∨
    (s.ph = .regAddr ∧ s.opc = .writeBytes ∧ s.cnt = 0 ∧ t = enter .stop s) ∨
    (s.ph = .regAddr ∧ s.opc = .writeBytes ∧ s.cnt ≠ 0 ∧ t = enter .dataW s) ∨
    (s.ph = .regAddr ∧ s.opc = .readByte ∧ t = enter .rstart s) ∨
    (s.ph = .regAddr ∧ s.opc = .readBytes ∧ (s.cnt = 0 ∧ s.params.rd0Full = false) ∧ t = enter .stop s) ∨
    (s.ph = .regAddr ∧ s.opc = .readBytes ∧ ¬(s.cnt = 0 ∧ s.params.rd0Full = false) ∧ t = enter .rstart s) ∨
    (s.ph = .dataW ∧ s.opc = .writeByte ∧ t = enter .stop { s with idx := s.idx + 1 }) ∨
    (s.ph = .dataW ∧ s.opc = .writeBytes ∧ s.idx.toNat + 1 = s.cnt ∧ t = enter .stop { s with idx := s.idx + 1 }) ∨
    (s.ph = .dataW ∧ s.opc = .writeBytes ∧ s.idx.toNat + 1 < s.cnt ∧ t = enter .dataW { s with idx := s.idx + 1 }) ∨
    (s.ph = .rstart ∧ s.opc.isRead = true ∧ t = enter .addrR s) ∨
    (s.ph = .addrR ∧ s.opc = .readByte ∧ t = enter .dataRNack s) ∨
    (s.ph = .addrR ∧ s.opc = .readBytes ∧ s.cnt = 0 ∧ t = enter .stop s) ∨
    (s.ph = .addrR ∧ s.opc = .readBytes ∧ s.cnt = 1 ∧ t = enter .dataRNack s) ∨
    (s.ph = .addrR ∧ s.opc = .readBytes ∧ 2 ≤ s.cnt ∧ t = enter .dataRAck s) ∨
    (s.ph = .stop ∧ t = finish .success s) ∨
    (s.ph = .aborted ∧ t = finish .timeout s) := by
  unfold phaseDone at h
  split at h <;> simp_all [Opcode.isRead]
  · split at h <;> simp_all
  · split at h <;> simp_all
  · split at h
    · simp_all
    · split at h <;> simp_all
  · split at h
    · simp_all
    · split at h
      · simp_all
      · refine .inr (.inr ⟨by omega, h.symm⟩)

/-! ### `LOAD`, `FETCH` -/

/-- Everything `LOAD` can do (41_phase_sequencer.md R153). -/
theorem loadByte_cases {s t : State} (h : loadByte s = .next t) :
    ∃ b, sendByte s = .ok b ∧ t = { facWrite .data b s with ms := .issue } := by
  unfold loadByte at h
  split at h
  · rename_i b hb
    exact ⟨b, hb, by simpa using h.symm⟩
  · cases h

/-- Everything `FETCH` can do (R158): where the byte goes, and the next phase. -/
theorem fetch_cases (s : State) :
    ∃ p, p = afterReceive (s.idx + 1) s ∧
      fetch s = enter p { storeReceived (facAnswer s) (facRead .data s) with idx := s.idx + 1 } :=
  ⟨_, rfl, rfl⟩

/-- Where a received byte goes: `RDATA` or one cell of `BUF`, nothing else. -/
theorem storeReceived_cases (d : Byte) (s : State) :
    (s.opc = .readByte ∧ storeReceived d s = { s with rdata := d }) ∨
    (s.opc ≠ .readByte ∧ storeReceived d s = { s with buf := Memory.write s.buf s.idx.toNat d }) := by
  unfold storeReceived
  split <;> simp_all

/-! ### Commands -/

/-- Everything the write of a legal command can do (42_transactions.md R190). -/
theorem issueCommand_cases (o : Opcode) (d : DevAddr) (r a : Byte) (s : State) :
    (s.ph = .idle ∧ issueCommand o d r a s = .next (acceptCommand o d r a s)) ∨
    (s.ph ≠ .idle ∧ issueCommand o d r a s = .fault .hostReentry) := by
  unfold issueCommand busy
  by_cases h : s.ph = .idle <;> simp [h]

end Sys2Proof.Machine
end

