-- ==== Sys2Proof/Laws/Step.lean ====
section
/-! SUPPORT. What one step can do: an inversion lemma for the sequencer's turn, for a host access and for `step`. -/

namespace Sys2Proof.Machine

/-- The word a bus phase issues (41_phase_sequencer.md R154). -/
def Phase.word : Phase → Byte
  | .start | .rstart | .idle | .init => startBits
  | .addrW | .regAddr | .dataW | .addrR => sendBits
  | .dataRAck => recvAckBits
  | .dataRNack => recvNackBits
  | .stop | .aborted => stopBits

/-- One turn in a bus phase is one of the four micro-steps of the phase's kind, or the phase has no such micro-step. -/
theorem sequencerStep_bus {s : State} (h : s.ph.isBus = true) :
    sequencerStep s =
      match s.ms with
      | .load => if s.ph.isSend then loadByte s else .fault .noMicroStep
      | .issue => .next (issueWord s.ph.word s.en s)
      | .poll => poll s
      | .fetch => if s.ph.isReceive then .next (fetch s) else .fault .noMicroStep := by
  unfold sequencerStep
  cases hp : s.ph <;> simp_all [Phase.isBus, phaseInstr?] <;>
    cases hm : s.ms <;>
    simp_all [exec, execStart, execRstart, execSend, execRecvAck, execRecvNack, execStop, conditionStep, sendStep,
      receiveStep, Phase.isSend, Phase.isReceive, Phase.word]

/-- Everything a turn of the sequencer can do. -/
theorem sequencerStep_cases {s t : State} (h : sequencerStep s = .next t) :
    (s.ph = .idle ∧ t = s) ∨
    (s.ph = .init ∧ s.ms = .load ∧ t = configureDivisor s) ∨
    (s.ph = .init ∧ s.ms = .issue ∧ t = finish .success { facWrite .ctrl enableWord s with en := true }) ∨
    (s.ph.isSend = true ∧ s.ms = .load ∧ loadByte s = .next t) ∨
    (s.ph.isBus = true ∧ s.ms = .issue ∧ t = issueWord s.ph.word s.en s) ∨
    (s.ph.isBus = true ∧ s.ms = .poll ∧ poll s = .next t) ∨
    (s.ph.isReceive = true ∧ s.ms = .fetch ∧ t = fetch s) := by
  by_cases hb : s.ph.isBus = true
  · rw [sequencerStep_bus hb] at h
    split at h
    · rename_i hm
      split at h
      · rename_i hs; exact .inr (.inr (.inr (.inl ⟨hs, hm, h⟩)))
      · cases h
    · rename_i hm
      simp only [Host.Outcome.next.injEq] at h
      exact .inr (.inr (.inr (.inr (.inl ⟨hb, hm, h.symm⟩))))
    · rename_i hm
      exact .inr (.inr (.inr (.inr (.inr (.inl ⟨hb, hm, h⟩)))))
    · rename_i hm
      split at h
      · rename_i hr
        simp only [Host.Outcome.next.injEq] at h
        exact .inr (.inr (.inr (.inr (.inr (.inr ⟨hr, hm, h.symm⟩)))))
      · cases h
  · have : s.ph = .idle ∨ s.ph = .init := by cases hp : s.ph <;> simp_all [Phase.isBus]
    unfold sequencerStep at h
    rcases this with hp | hp
    · simp [hp, phaseInstr?] at h
      exact .inl ⟨hp, h.symm⟩
    · cases hm : s.ms <;> simp [hp, hm, phaseInstr?, exec, execEnable] at h
      · exact .inr (.inl ⟨hp, rfl, h.symm⟩)
      · exact .inr (.inr (.inl ⟨hp, rfl, h.symm⟩))

/-- Which instruction a command word decodes to decides only its opcode and fields: running it is `issueCommand`
of them. -/
theorem exec_command {i : Instr} {o : Opcode} {d : DevAddr} {r a : Byte} (h : commandFields? i = some (o, d, r, a))
    (s : State) : exec i s = issueCommand o d r a s := by
  cases i <;> simp [commandFields?] at h <;> obtain ⟨rfl, rfl, rfl, rfl⟩ := h <;> rfl

/-- A decoded command word is a command. -/
theorem decodeCommand_fields {w : Word} {i : Instr} (h : decodeCommand w = .ok i) :
    ∃ f, commandFields? i = some f := by
  unfold decodeCommand at h
  repeat' split at h
  all_goals first
    | (simp only [Except.ok.injEq] at h; subst h; exact ⟨_, rfl⟩)
    | cases h

/-- Everything a host access can do: show a register, change one cell of `BUF` while idle, refuse or accept a
command while idle, or nothing. -/
theorem hostAccess_cases {a : HostAccess} {s t : State} (h : hostAccess a s = .next t) :
    (∃ w n, t = { s with hrdata := w, freeNext := n }) ∨
    (∃ i v : Byte, s.ph = .idle ∧ t = { s with buf := Memory.write s.buf i.toNat v }) ∨
    (s.ph = .idle ∧ t = refuseCommand s) ∨
    (∃ i o d r x, commandFields? i = some (o, d, r, x) ∧ s.ph = .idle ∧ t = acceptCommand o d r x s) := by
  cases a with
  | read a =>
    simp only [hostAccess, hostRead] at h
    split at h
    all_goals first
      | (simp only [Host.Outcome.next.injEq] at h; subst h; exact .inl ⟨_, _, rfl⟩)
      | (split at h
         · cases h
         · simp only [Host.Outcome.next.injEq] at h; subst h; exact .inl ⟨_, _, rfl⟩)
  | write a w =>
    simp only [hostAccess, hostWrite] at h
    split at h
    · simp only [writeCmd] at h
      split at h
      · cases h
      · rename_i hb
        have hi : s.ph = .idle := by simpa [busy] using hb
        split at h
        · rename_i i hd
          obtain ⟨⟨o, d, r, x⟩, hf⟩ := decodeCommand_fields hd
          rw [exec_command hf] at h
          obtain ⟨-, e⟩ | ⟨hn, -⟩ := issueCommand_cases o d r x s
          · rw [e] at h
            simp only [Host.Outcome.next.injEq] at h
            exact .inr (.inr (.inr ⟨i, o, d, r, x, hf, hi, h.symm⟩))
          · exact absurd hi hn
        · simp only [Host.Outcome.next.injEq] at h
          exact .inr (.inr (.inl ⟨hi, h.symm⟩))
    · split at h
      · cases h
      · rename_i hb
        simp only [Host.Outcome.next.injEq] at h
        exact .inr (.inl ⟨_, _, by simpa [busy] using hb, h.symm⟩)
    all_goals
      simp only [Host.Outcome.next.injEq] at h
      subst h
      exact .inl ⟨_, _, rfl⟩

/-- Everything `step` can do: the turn of the sequencer, a host access, or a reset cycle. -/
theorem step_cases {s t : State} (h : step s = .next t) :
    (s.inputs = [] ∧ sequencerStep s = .next t) ∨
    (∃ l, s.inputs = .tick :: l ∧ sequencerStep { s with inputs := l } = .next t) ∨
    (∃ a l, s.inputs = .host a :: l ∧ hostAccess a { s with inputs := l } = .next t) ∨
    (∃ a l, s.inputs = .rst a :: l ∧ t = resetCycle a { s with inputs := l }) := by
  unfold step at h
  split at h
  · rename_i hi; exact .inl ⟨hi, h⟩
  · rename_i l hi; exact .inr (.inl ⟨l, hi, h⟩)
  · rename_i a l hi; exact .inr (.inr (.inl ⟨a, l, hi, h⟩))
  · rename_i a l hi
    simp only [Host.Outcome.next.injEq] at h
    exact .inr (.inr (.inr ⟨a, l, hi, h.symm⟩))

/-- With no input left the turn is the sequencer's. -/
theorem step_of_no_inputs {s : State} (h : s.inputs = []) : step s = sequencerStep s := by
  simp [step, h]

theorem stepN_succ {n : Nat} {s t : State} (h : step s = .next t) : stepN (n + 1) s = stepN n t := by
  simp [stepN, h]

/-- Runs of steps compose. -/
theorem stepN_add {m n : Nat} {s t : State} (h : stepN m s = .next t) : stepN (m + n) s = stepN n t := by
  induction m generalizing s with
  | zero => simp [stepN] at h; subst h; simp
  | succ m ih =>
    rw [Nat.add_right_comm]
    simp only [stepN] at h ⊢
    cases hs : step s <;> simp only [hs] at h ⊢
    · exact ih h
    · cases h
    · cases h

end Sys2Proof.Machine
end

