-- ==== Sys2Proof/Laws/Frames.lean ====
section
/-! SUPPORT. What each micro-step leaves unchanged, and the one facade access it makes. -/

namespace Sys2Proof.Machine

/-- The elements that the sequencer never writes outside `INIT` and `FETCH`: parameters, enables, the command latch,
`CMDERR`, `RDATA`, `BUF`, and the host's side. -/
def sameRegisters (s t : State) : Prop :=
  t.params = s.params ∧ t.en = s.en ∧ t.div = s.div ∧ t.opc = s.opc ∧ t.dev = s.dev ∧ t.reg = s.reg ∧ t.arg = s.arg ∧
    t.cmderr = s.cmderr ∧ t.inputs = s.inputs ∧ t.hrdata = s.hrdata

/-- `phase_done()` makes no facade access. -/
theorem phaseDone_history {s t : State} (h : phaseDone s = .next t) : t.history = s.history := by
  rcases phaseDone_cases h with ⟨_, rfl⟩ | ⟨_, rfl⟩ | ⟨_, _, rfl⟩ | ⟨_, _, _, rfl⟩ | ⟨_, _, _, rfl⟩ | ⟨_, _, rfl⟩ |
    ⟨_, _, _, rfl⟩ | ⟨_, _, _, rfl⟩ | ⟨_, _, rfl⟩ | ⟨_, _, _, rfl⟩ | ⟨_, _, _, rfl⟩ | ⟨_, _, rfl⟩ | ⟨_, _, rfl⟩ |
    ⟨_, _, _, rfl⟩ | ⟨_, _, _, rfl⟩ | ⟨_, _, _, rfl⟩ | ⟨_, rfl⟩ | ⟨_, rfl⟩ <;> rfl

/-- Counting down or expiring makes no facade access. -/
theorem pollNotDone_history (s : State) : (pollNotDone s).history = s.history := by
  rcases pollNotDone_cases s with ⟨_, e⟩ | ⟨_, _, e⟩ | ⟨_, _, e⟩ <;> rw [e] <;> rfl

/-- What `POLL` leaves: every register but `TCNT`, `MS`, `PH`, `IDX` and those of `finish` (10_state.md R46). -/
theorem poll_frame {s t : State} (h : poll s = .next t) :
    sameRegisters s t ∧ t.rdata = s.rdata ∧ t.buf = s.buf ∧
      ((t.result = s.result ∧ t.valid = s.valid) ∨ (t.ph = .idle ∧ t.valid = true)) := by
  unfold sameRegisters
  rcases poll_cases h with ⟨_, _, rfl⟩ | ⟨_, _, hd⟩ | ⟨_, rfl⟩
  · simp
  · rcases phaseDone_cases hd with ⟨_, rfl⟩ | ⟨_, rfl⟩ | ⟨_, _, rfl⟩ | ⟨_, _, _, rfl⟩ | ⟨_, _, _, rfl⟩ | ⟨_, _, rfl⟩ |
      ⟨_, _, _, rfl⟩ | ⟨_, _, _, rfl⟩ | ⟨_, _, rfl⟩ | ⟨_, _, _, rfl⟩ | ⟨_, _, _, rfl⟩ | ⟨_, _, rfl⟩ | ⟨_, _, rfl⟩ |
      ⟨_, _, _, rfl⟩ | ⟨_, _, _, rfl⟩ | ⟨_, _, _, rfl⟩ | ⟨_, rfl⟩ | ⟨_, rfl⟩ <;> simp
  · rcases pollNotDone_cases (facRead .stat s) with ⟨_, e⟩ | ⟨_, _, e⟩ | ⟨_, _, e⟩ <;> rw [e] <;> simp

/-- What `FETCH` leaves, and where its byte goes (41_phase_sequencer.md R158). -/
theorem fetch_frame (s : State) :
    sameRegisters s (fetch s) ∧ (fetch s).result = s.result ∧ (fetch s).valid = s.valid ∧
      (s.opc = .readByte → (fetch s).buf = s.buf) ∧
      (s.opc ≠ .readByte →
        (fetch s).rdata = s.rdata ∧ (fetch s).buf = Memory.write s.buf s.idx.toNat (facAnswer s)) := by
  unfold sameRegisters fetch storeReceived
  by_cases h : s.opc = .readByte <;> simp [h]

/-- Every phase after a receive phase begins with `ISSUE`. -/
theorem fetch_ms (s : State) : (fetch s).ms = .issue := by
  simp only [fetch, enter_ms, afterReceive]
  repeat' split
  all_goals rfl

/-- The facade access of each turn of the sequencer (20_memory.md R73). -/
theorem sequencerStep_history {s t : State} (h : sequencerStep s = .next t) :
    (s.ph = .idle ∧ t = s) ∨
    (s.ph = .init ∧ s.ms = .load ∧ t.history = .write .baud s.arg :: s.history) ∨
    (s.ph = .init ∧ s.ms = .issue ∧ t.history = .write .ctrl enableWord :: s.history) ∨
    (∃ b, s.ph.isSend = true ∧ s.ms = .load ∧ t.history = .write .data b :: s.history) ∨
    (s.ph.isBus = true ∧ s.ms = .issue ∧ t.history = .write .ctrl (controlWord s.ph.word s.en) :: s.history) ∨
    (s.ph.isBus = true ∧ s.ms = .poll ∧ t.history = .read .stat (facAnswer s) :: s.history) ∨
    (s.ph.isReceive = true ∧ s.ms = .fetch ∧ t.history = .read .data (facAnswer s) :: s.history) := by
  rcases sequencerStep_cases h with ⟨hp, rfl⟩ | ⟨hp, hm, rfl⟩ | ⟨hp, hm, rfl⟩ | ⟨hp, hm, hl⟩ | ⟨hp, hm, rfl⟩ |
    ⟨hp, hm, hl⟩ | ⟨hp, hm, rfl⟩
  · exact .inl ⟨hp, rfl⟩
  · exact .inr (.inl ⟨hp, hm, rfl⟩)
  · exact .inr (.inr (.inl ⟨hp, hm, rfl⟩))
  · obtain ⟨b, _, rfl⟩ := loadByte_cases hl
    exact .inr (.inr (.inr (.inl ⟨b, hp, hm, rfl⟩)))
  · exact .inr (.inr (.inr (.inr (.inl ⟨hp, hm, rfl⟩))))
  · refine .inr (.inr (.inr (.inr (.inr (.inl ⟨hp, hm, ?_⟩)))))
    rcases poll_cases hl with ⟨_, _, rfl⟩ | ⟨_, _, hd⟩ | ⟨_, rfl⟩
    · rfl
    · rw [phaseDone_history hd]; rfl
    · rw [pollNotDone_history]; rfl
  · refine .inr (.inr (.inr (.inr (.inr (.inr ⟨hp, hm, ?_⟩)))))
    simp only [fetch, enter_history, storeReceived]; split <;> rfl

/-- A host access makes no facade access. -/
theorem hostAccess_history {s t : State} {a : HostAccess} (h : hostAccess a s = .next t) : t.history = s.history := by
  rcases hostAccess_cases h with ⟨w, n, rfl⟩ | ⟨i, v, _, rfl⟩ | ⟨_, rfl⟩ | ⟨i, o, d, r, x, _, _, rfl⟩ <;> rfl

/-- Everything a phase action can do: the second micro-step of `INIT`, or one of the four micro-steps. -/
theorem exec_action_cases {i : Instr} {s t : State} (hc : commandFields? i = none) (h : exec i s = .next t) :
    (i = .enable ∧ s.ms = .issue ∧ t = finish .success { facWrite .ctrl enableWord s with en := true }) ∨
    (i ≠ .enable ∧ s.ms = .load ∧ loadByte s = .next t) ∨
    (i ≠ .enable ∧ s.ms = .issue ∧ ∃ be : Byte × Bool, t = issueWord be.1 be.2 s) ∨
    (i ≠ .enable ∧ s.ms = .poll ∧ poll s = .next t) ∨
    (i ≠ .enable ∧ s.ms = .fetch ∧ t = fetch s) := by
  cases i <;> simp [commandFields?] at hc
  all_goals
    simp only [exec, execStart, execRstart, execSend, execRecvAck, execRecvNack, execStop, execEnable, conditionStep,
      sendStep, receiveStep] at h
    split at h
    · cases hm : s.ms <;> simp [hm, -Prod.exists] at h ⊢ <;>
        first | exact h | exact h.symm | exact ⟨(_, _), h.symm⟩
    · cases h

end Sys2Proof.Machine
end

