-- ==== Sys2Proof/Laws/PerInstr.lean ====
section
/-! SUPPORT. The statements made for every instruction, one lemma per constructor. -/

namespace Sys2Proof.Laws.TableRow

/-- The mask and match that 30_encoding.md R114, R118 and R119 give the instruction's row, and the row's width. -/
def row : Instr → Nat × Nat × Nat
  | .init _ => (32, 0xFFFFFF00, 0x10000000)
  | .writeByte _ _ _ => (32, 0xF8000F00, 0x20000000)
  | .writeBytes _ _ _ => (32, 0xF8000F00, 0x30000000)
  | .readByte _ _ => (32, 0xF8000FFF, 0x40000000)
  | .readBytes _ _ _ => (32, 0xF8000F00, 0x50000000)
  | .start _ => (9, 0x1FE, 0x082)
  | .rstart _ => (9, 0x1FE, 0x182)
  | .send _ => (9, 0x1FE, 0x180)
  | .recvAck _ => (9, 0x1FE, 0x198)
  | .recvNack _ => (9, 0x1FE, 0x188)
  | .stop _ => (9, 0x1FE, 0x184)
  | .enable => (9, 0x1FF, 0x001)

/-- The width of an encoded instruction and its bits as a number. -/
def bits : Encoded → Nat × Nat
  | .command w => (32, w.toNat)
  | .key k => (9, k.toNat)

/-- The instruction's encoding has its row's width and satisfies the row's mask and match. -/
def Statement (i : Instr) : Prop :=
  (bits (encode i)).1 = (row i).1 ∧ (bits (encode i)).2 &&& (row i).2.1 = (row i).2.2

theorem command_row {w mask pattern : Word} (h : w &&& mask = pattern) :
    w.toNat &&& mask.toNat = pattern.toNat := by rw [← h, BitVec.toNat_and]

theorem init (div : Byte) : Statement (.init div) :=
  ⟨rfl, command_row (mask := 0xFFFFFF00#32) (pattern := 0x10000000#32) (commandWord_and_initMask ..)⟩

theorem writeByte (dev : DevAddr) (reg data : Byte) : Statement (.writeByte dev reg data) :=
  ⟨rfl, command_row (mask := 0xF8000F00#32) (pattern := 0x20000000#32) (commandWord_and_mask ..)⟩

theorem writeBytes (dev : DevAddr) (reg count : Byte) : Statement (.writeBytes dev reg count) :=
  ⟨rfl, command_row (mask := 0xF8000F00#32) (pattern := 0x30000000#32) (commandWord_and_mask ..)⟩

theorem readByte (dev : DevAddr) (reg : Byte) : Statement (.readByte dev reg) :=
  ⟨rfl, command_row (mask := 0xF8000FFF#32) (pattern := 0x40000000#32) (commandWord_and_readByteMask ..)⟩

theorem readBytes (dev : DevAddr) (reg count : Byte) : Statement (.readBytes dev reg count) :=
  ⟨rfl, command_row (mask := 0xF8000F00#32) (pattern := 0x50000000#32) (commandWord_and_mask ..)⟩

theorem start (en : Bool) : Statement (.start en) := by cases en <;> exact ⟨rfl, by decide⟩

theorem rstart (en : Bool) : Statement (.rstart en) := by cases en <;> exact ⟨rfl, by decide⟩

theorem send (en : Bool) : Statement (.send en) := by cases en <;> exact ⟨rfl, by decide⟩

theorem recvAck (en : Bool) : Statement (.recvAck en) := by cases en <;> exact ⟨rfl, by decide⟩

theorem recvNack (en : Bool) : Statement (.recvNack en) := by cases en <;> exact ⟨rfl, by decide⟩

theorem stop (en : Bool) : Statement (.stop en) := by cases en <;> exact ⟨rfl, by decide⟩

theorem enable : Statement .enable := ⟨rfl, by decide⟩

end Sys2Proof.Laws.TableRow
end

