-- ==== Sys2Proof/Laws/Phases.lean ====
section
/-! SUPPORT. A whole phase whose first poll sees `DONE`, in one lemma for each kind of phase. -/

namespace Sys2Proof.Machine

/-- Every control word of a phase has `GO = 1`. -/
theorem goFlag_word (p : Phase) (e : Bool) : goFlag (controlWord p.word e) = true := by
  cases p <;> cases e <;> decide

theorem step_load {s : State} {b : Byte} (hk : s.ph.isSend = true) (hm : s.ms = .load) (hi : s.inputs = [])
    (hb : sendByte s = .ok b) : step s = .next { facWrite .data b s with ms := .issue } := by
  have hbus : s.ph.isBus = true := by cases h : s.ph <;> simp [h, Phase.isSend, Phase.isBus] at *
  rw [step_of_no_inputs hi, sequencerStep_bus hbus]
  simp [hm, hk, loadByte, hb]

theorem step_issue {s : State} (hb : s.ph.isBus = true) (hm : s.ms = .issue) (hi : s.inputs = []) :
    step s = .next (issueWord s.ph.word s.en s) := by
  rw [step_of_no_inputs hi, sequencerStep_bus hb]
  simp [hm]

theorem step_poll {s : State} (hb : s.ph.isBus = true) (hm : s.ms = .poll) (hi : s.inputs = []) : step s = poll s := by
  rw [step_of_no_inputs hi, sequencerStep_bus hb]
  simp [hm]

theorem step_fetch {s : State} (hr : s.ph.isReceive = true) (hm : s.ms = .fetch) (hi : s.inputs = []) :
    step s = .next (fetch s) := by
  have hb : s.ph.isBus = true := by cases h : s.ph <;> simp [h, Phase.isReceive, Phase.isBus] at *
  rw [step_of_no_inputs hi, sequencerStep_bus hb]
  simp [hm, hr]

/-- The state in which a prompt send phase asks `phase_done()`. -/
def sentState (s : State) (b p : Byte) (rest : List Byte) : State :=
  { s with
    ms := .poll
    tcnt := s.params.tmo
    answers := rest
    facade := { s.facade with ctrl := controlWord s.ph.word s.en, stat := p, data := b }
    history := sendTrace b (controlWord s.ph.word s.en) p ++ s.history }

/-- The state in which a prompt condition phase asks `phase_done()`. -/
def conditionState (s : State) (p : Byte) (rest : List Byte) : State :=
  { s with
    ms := .poll
    tcnt := s.params.tmo
    answers := rest
    own := if s.ph = .start then true else s.own
    facade := { s.facade with ctrl := controlWord s.ph.word s.en, stat := p }
    history := conditionTrace (controlWord s.ph.word s.en) p ++ s.history }

theorem stepN_two {s a b : State} (h₁ : step s = .next a) (h₂ : step a = .next b) : stepN 2 s = .next b := by
  simp [stepN, h₁, h₂]

theorem stepN_three {s a b c : State} (h₁ : step s = .next a) (h₂ : step a = .next b) (h₃ : step b = .next c) :
    stepN 3 s = .next c := by
  simp [stepN, h₁, h₂, h₃]

/-- A prompt send phase (41_phase_sequencer.md R169, `k = 1`). -/
theorem stepN_send {s t : State} {p b : Byte} {rest : List Byte} (hk : s.ph.isSend = true) (hm : s.ms = .load)
    (hi : s.inputs = []) (ha : s.answers = p :: rest) (hd : doneFlag p = true) (hb : sendByte s = .ok b)
    (ht : phaseDone (sentState s b p rest) = .next t) : stepN 3 s = .next t := by
  have hbus : s.ph.isBus = true := by cases h : s.ph <;> simp [h, Phase.isSend, Phase.isBus] at *
  have hr : s.ph.isReceive = false := by cases h : s.ph <;> simp [h, Phase.isSend, Phase.isReceive] at *
  have hns : s.ph ≠ .start := by intro h; simp [h, Phase.isSend] at hk
  refine stepN_three (step_load hk hm hi hb)
    (step_issue (s := { facWrite .data b s with ms := .issue }) hbus rfl hi) ?_
  rw [step_poll (by exact hbus) rfl (by exact hi)]
  unfold poll
  rw [facAnswer_of_answers (v := p) (l := rest) (by exact ha)]
  simp only [hd, if_true, pollDone, facRead_ph, issueWord_ph, facWrite_ph, hr, Bool.false_eq_true, if_false]
  rw [← ht]; congr 1
  simp [sentState, facRead, issueWord, facWrite, facAnswer, ha, Facade.store, Facade.observe, goFlag_word, hns,
    sendTrace]

/-- A prompt condition phase. -/
theorem stepN_condition {s t : State} {p : Byte} {rest : List Byte} (hk : s.ph.isCondition = true) (hm : s.ms = .issue)
    (hi : s.inputs = []) (ha : s.answers = p :: rest) (hd : doneFlag p = true)
    (ht : phaseDone (conditionState s p rest) = .next t) : stepN 2 s = .next t := by
  have hbus : s.ph.isBus = true := by cases h : s.ph <;> simp [h, Phase.isCondition, Phase.isBus] at *
  have hr : s.ph.isReceive = false := by cases h : s.ph <;> simp [h, Phase.isCondition, Phase.isReceive] at *
  refine stepN_two (step_issue hbus hm hi) ?_
  rw [step_poll (by exact hbus) rfl (by exact hi)]
  unfold poll
  rw [facAnswer_of_answers (v := p) (l := rest) (by exact ha)]
  simp only [hd, if_true, pollDone, facRead_ph, issueWord_ph, hr, Bool.false_eq_true, if_false]
  rw [← ht]; congr 1
  simp [conditionState, facRead, issueWord, facWrite, facAnswer, ha, Facade.store, Facade.observe, goFlag_word,
    conditionTrace]

/-- A prompt receive phase: its byte is in `RDATA` or `BUF[IDX]`, and the next phase begins. -/
theorem stepN_receive {s : State} {p d : Byte} {rest : List Byte} (hk : s.ph.isReceive = true) (hm : s.ms = .issue)
    (hi : s.inputs = []) (ha : s.answers = p :: d :: rest) (hd : doneFlag p = true) :
    stepN 3 s = .next { s with
      ms := .issue
      tcnt := s.params.tmo
      answers := rest
      ph := afterReceive (s.idx + 1) s
      idx := s.idx + 1
      rdata := if s.opc = .readByte then d else s.rdata
      buf := if s.opc = .readByte then s.buf else Memory.write s.buf s.idx.toNat d
      facade := { s.facade with ctrl := controlWord s.ph.word s.en, stat := p, data := d }
      history := receiveTrace (controlWord s.ph.word s.en) p d ++ s.history } := by
  have hbus : s.ph.isBus = true := by cases h : s.ph <;> simp [h, Phase.isReceive, Phase.isBus] at *
  have hns : s.ph ≠ .start := by intro h; simp [h, Phase.isReceive] at hk
  have h₃ : step (issueWord s.ph.word s.en s) =
      .next { facRead .stat (issueWord s.ph.word s.en s) with ms := .fetch } := by
    rw [step_poll (by exact hbus) rfl (by exact hi)]
    unfold poll
    rw [facAnswer_of_answers (v := p) (l := d :: rest) (by exact ha)]
    simp [hd, pollDone, hk]
  refine stepN_three (step_issue hbus hm hi) h₃ ?_
  rw [step_fetch (by exact hk) rfl (by exact hi)]
  by_cases ho : s.opc = .readByte <;>
    simp [fetch, storeReceived, ho, enter, facRead, issueWord, facWrite, facAnswer, ha, Facade.store, Facade.observe,
      goFlag_word, hns, receiveTrace, afterReceive, State.cnt, firstMicroStep] <;>
    (repeat' split) <;> decide

end Sys2Proof.Machine
end

