-- ==== Sys2Proof/Laws/Platform.lean ====
section
/-! SUPPORT. Laws of the premise platform: what a `CTRL` write does to the phase, and that an unspecified phase stays
unspecified until the next `GO` word with `EN = 1`. -/

namespace Sys2Proof.Machine

/-- A `GO` word begins its phase exactly on the controller that its own `EN` bit leaves on. -/
theorem Platform.control_go_launch (p : Platform) (w : Byte) (h : goFlag w = true) :
    (p.control w).launch = if enFlag w then .inFlight w p.toSend else .unspecified := by
  cases he : enFlag w <;> simp [Platform.control, Platform.go, h, he]

/-- A word with `GO = 0` changes the `enabled` flag only, unless it turns the controller off under a phase in flight. -/
theorem Platform.control_noGo (p : Platform) (w : Byte) (h : goFlag w = false)
    (hk : enFlag w = true ∨ ∀ v b, p.launch ≠ .inFlight v b) : p.control w = { p with enabled := enFlag w } := by
  rcases p with ⟨_, _, _, _, _, _, l, _⟩
  cases l <;> simp_all [Platform.control, Platform.noGo]

theorem Platform.after_stays_unspecified (p : Platform) (a : FacAccess) (h : p.launch = .unspecified)
    (hb : a.begins = false) : (p.after a).launch = .unspecified := by
  rcases a with ⟨_ | _ | _ | _, v⟩ | ⟨_ | _ | _ | _, v⟩ <;> simp [Platform.after, h]
  cases hg : goFlag v
  · simp [Platform.control, Platform.noGo, hg, h]
  · have he : enFlag v = false := by simpa [FacAccess.begins, hg] using hb
    simp [Platform.control_go_launch p v hg, he]

theorem Platform.allows_unspecified (p : Platform) (a : FacAccess) (h : p.launch = .unspecified) :
    p.allows a = true := by
  simp [Platform.allows, h]

theorem Platform.allows_write (p : Platform) (r : FacReg) (v : Byte) : p.allows (.write r v) = true := by
  simp [Platform.allows]

end Sys2Proof.Machine
end

