-- ==== Sys2Proof/Tests/Slice0.lean ====
section
/-! SUPPORT. Tests, and for each obligation with hypotheses a state that meets them. Expected values are those of
spec/95_test_vectors.md or of the rule named. -/

namespace Sys2Proof.Tests

open Sys2Proof Sys2Proof.Machine

/-! ### Well-formedness: an ill-formed line for each check (30_encoding.md R129) -/

theorem test_init_divisor_too_large : (AsmLine.init 256).wellFormed = false := by decide
theorem test_writeByte_device_too_large : (AsmLine.writeByte 128 0 0).wellFormed = false := by decide
theorem test_writeByte_register_too_large : (AsmLine.writeByte 127 256 0).wellFormed = false := by decide
theorem test_writeByte_data_too_large : (AsmLine.writeByte 127 255 256).wellFormed = false := by decide
theorem test_writeBytes_device_too_large : (AsmLine.writeBytes 128 0 0).wellFormed = false := by decide
theorem test_writeBytes_register_too_large : (AsmLine.writeBytes 127 256 0).wellFormed = false := by decide
theorem test_writeBytes_count_too_large : (AsmLine.writeBytes 127 255 256).wellFormed = false := by decide
theorem test_readByte_device_too_large : (AsmLine.readByte 128 0).wellFormed = false := by decide
theorem test_readByte_register_too_large : (AsmLine.readByte 127 256).wellFormed = false := by decide
theorem test_readBytes_device_too_large : (AsmLine.readBytes 128 0 0).wellFormed = false := by decide
theorem test_readBytes_register_too_large : (AsmLine.readBytes 127 256 0).wellFormed = false := by decide
theorem test_readBytes_count_too_large : (AsmLine.readBytes 127 255 256).wellFormed = false := by decide
theorem test_ill_formed_line_is_no_instruction : (AsmLine.readBytes 127 255 256).toInstr? = none := by decide
theorem test_well_formed_line : (AsmLine.readBytes 127 255 255).toInstr? = some (.readBytes 127 255 255) := by decide

/-! ### Decoding: words written out field by field from 30_encoding.md R111 to R119 -/

/-- C1, C2, C3. -/
theorem test_decode_init :
    decodeTableWord 32 0b0001_0_0000000_00000000_0000_01001000 = some (.init 0x48) ∧
    decodeTableWord 32 0x10000000 = some (.init 0) ∧ decodeTableWord 32 0x100000FF = some (.init 0xFF) := by decide

/-- C4, C5, C6. -/
theorem test_decode_writeByte :
    decodeTableWord 32 0b0010_0_1110110_11110100_0000_01101111 = some (.writeByte 0x76 0xF4 0x6F) ∧
    decodeTableWord 32 0x27FFF0FF = some (.writeByte 0x7F 0xFF 0xFF) ∧
    decodeTableWord 32 0x20000000 = some (.writeByte 0 0 0) := by decide

/-- C7, C8, C9. -/
theorem test_decode_writeBytes :
    decodeTableWord 32 0b0011_0_1110110_00010000_0000_00000011 = some (.writeBytes 0x76 0x10 3) ∧
    decodeTableWord 32 0x376F4001 = some (.writeBytes 0x76 0xF4 1) ∧
    decodeTableWord 32 0x37F000FF = some (.writeBytes 0x7F 0 255) := by decide

/-- C10, C11. -/
theorem test_decode_readByte :
    decodeTableWord 32 0b0100_0_1110110_11110100_0000_00000000 = some (.readByte 0x76 0xF4) ∧
    decodeTableWord 32 0x47FFF000 = some (.readByte 0x7F 0xFF) := by decide

/-- C12 to C15. -/
theorem test_decode_readBytes :
    decodeTableWord 32 0b0101_0_1110110_10001000_0000_00011000 = some (.readBytes 0x76 0x88 24) ∧
    decodeTableWord 32 0x57610000 = some (.readBytes 0x76 0x10 0) ∧
    decodeTableWord 32 0x50000000 = some (.readBytes 0 0 0) ∧
    decodeTableWord 32 0x57F000FF = some (.readBytes 0x7F 0 255) := by decide

/-- K1 to K7: `OWN ‖ GO ‖ 00 ‖ ACK ‖ RD ‖ STO ‖ STA ‖ EN`. -/
theorem test_decode_keys_enabled :
    decodeTableWord 16 0b0_1_00_0_0_0_1_1 = some (.start true) ∧
    decodeTableWord 16 0b1_1_00_0_0_0_1_1 = some (.rstart true) ∧
    decodeTableWord 16 0b1_1_00_0_0_0_0_1 = some (.send true) ∧
    decodeTableWord 16 0b1_1_00_1_1_0_0_1 = some (.recvAck true) ∧
    decodeTableWord 16 0b1_1_00_0_1_0_0_1 = some (.recvNack true) ∧
    decodeTableWord 16 0b1_1_00_0_0_1_0_1 = some (.stop true) ∧
    decodeTableWord 16 0b0_0_00_0_0_0_0_1 = some .enable := by decide

/-- K8 to K12, and the repeated start with `EN` = 0. -/
theorem test_decode_keys_disabled :
    decodeTableWord 16 0b0_1_00_0_0_0_1_0 = some (.start false) ∧
    decodeTableWord 16 0b1_1_00_0_0_0_1_0 = some (.rstart false) ∧
    decodeTableWord 16 0b1_1_00_0_0_0_0_0 = some (.send false) ∧
    decodeTableWord 16 0b1_1_00_1_1_0_0_0 = some (.recvAck false) ∧
    decodeTableWord 16 0b1_1_00_0_1_0_0_0 = some (.recvNack false) ∧
    decodeTableWord 16 0b1_1_00_0_0_1_0_0 = some (.stop false) := by decide

/-- X1 to X10: refused, each by its reason. -/
theorem test_refused_words :
    ([0x00000000#32, 0x60000000#32, 0xF0000000#32, 0x28000000#32, 0x20000100#32, 0x40000001#32, 0x10000100#32,
      0x17600048#32, 0x2FFFFFFF#32, 0xFFFFFFFF#32].map fun w => (decodeCommand w).toOption) =
      List.replicate 10 none := by decide

/-- Keys that R120 excludes: bits 6:5, `STA` with `STO`, `RD` with `STA`, `ACK` without `RD`, `GO` = 0, and an action's
word with the wrong `OWN`. -/
theorem test_refused_keys :
    ([0x1C1#9, 0x1A1#9, 0x087#9, 0x08B#9, 0x191#9, 0x000#9, 0x081#9, 0x101#9].map fun k => (decodeKey k).toOption) =
      List.replicate 8 none := by decide

/-- The encoder, on the examples of R131. -/
theorem test_encode_examples :
    encode (.init 0x48) = .command 0x10000048 ∧ encode (.writeByte 0x76 0xF4 0x6F) = .command 0x276F406F ∧
    encode (.readBytes 0x7F 0xFF 255) = .command 0x57FFF0FF ∧ encode (.rstart true) = .key 0x183 := by decide

/-! ### Small states -/

/-- The default start state of 95_test_vectors.md Part 2 where it matters: `INIT 0x48` done, `TMO` = 4. -/
def base : State :=
  { State.reset with
    en := true
    div := 0x48
    opc := .init
    arg := 0x48
    valid := true
    params := { tmoLessOne := 3, rd0Full := true }
    facade := { ctrl := 0x01, stat := 0, data := 0, baud := 0x48 } }

/-- In the middle of a transaction with device 0x76, register 0x10. -/
def mid (ph : Phase) (ms : MicroStep) (opc : Opcode) (arg idx : Byte) (tcnt : Nat) (answers : List Byte) : State :=
  { base with
    ph := ph, ms := ms, opc := opc, dev := 0x76, reg := 0x10, arg := arg, idx := idx, tcnt := tcnt, own := true,
    valid := false, answers := answers }

/-- The step goes on, to a state of which `p` holds. -/
def nextIs (r : Result) (p : State → Bool) : Bool :=
  match r with
  | .next t => p t
  | .fault _ | .refused _ => false

/-- The step stops with this fault. -/
def faultIs (r : Result) (f : Fault) : Bool :=
  match r with
  | .fault g => g = f
  | .next _ | .refused _ => false

/-! ### One step each -/

/-- I1, acceptance. -/
theorem test_init_accepted :
    nextIs (step (base.withFetchWord 32 0x10000048)) (fun t => statusReg t = 0x41 ∧ seqReg t = 0x0B) = true := by decide

/-- I1, step 1. -/
theorem test_init_first_micro_step :
    nextIs (step { base with ph := .init, valid := false, arg := 0x20 })
      (fun t => t.history = [.write .baud 0x20] ∧ t.div = 0x20 ∧ seqReg t = 0x1B) = true := by decide

/-- I1, step 2. -/
theorem test_enable :
    nextIs (exec .enable { base with ph := .init, ms := .issue, en := false, valid := false })
      (fun t => t.history = [.write .ctrl 0x01] ∧ statusReg t = 0x42 ∧ seqReg t = 0) = true := by decide

/-- V1: `STATUS` after acceptance is 0x41, and `CMD` reads the word back. -/
theorem test_writeByte_accepted :
    nextIs (step (base.withFetchWord 32 0x276F406F)) (fun t => statusReg t = 0x41 ∧ cmdReg t = 0x276F406F ∧ t.ph = .start)
      = true := by decide

/-- V5. -/
theorem test_writeBytes_accepted :
    nextIs (step (base.withFetchWord 32 0x37610003)) (fun t => cmdReg t = 0x37610003 ∧ t.cnt = 3 ∧ t.ph = .start)
      = true := by decide

/-- V2. -/
theorem test_readByte_accepted :
    nextIs (step (base.withFetchWord 32 0x476F4000)) (fun t => cmdReg t = 0x476F4000 ∧ t.arg = 0 ∧ t.ms = .issue)
      = true := by decide

/-- V11. -/
theorem test_readBytes_accepted :
    nextIs (step (base.withFetchWord 32 0x57F000FF)) (fun t => cmdReg t = 0x57F000FF ∧ t.cnt = 255) = true := by decide

/-- K1; `OWN` is set by the `ISSUE`, and the budget loaded (41_phase_sequencer.md R160). -/
theorem test_start_issue :
    nextIs (exec (.start true) { mid .start .issue .writeByte 0x6F 0 0 [] with own := false })
      (fun t => t.history = [.write .ctrl 0x83] ∧ t.own ∧ t.tcnt = 4 ∧ t.ms = .poll) = true := by decide

/-- T1, the last poll of `START`: a timeout. -/
theorem test_start_timeout :
    nextIs (exec (.start true) (mid .start .poll .writeByte 0x6F 0 1 [0x00]))
      (fun t => t.ph = .aborted ∧ t.ms = .issue ∧ t.tcnt = 0 ∧ t.own) = true := by decide

/-- K2. -/
theorem test_rstart_issue :
    nextIs (exec (.rstart true) (mid .rstart .issue .readByte 0 0 4 []))
      (fun t => t.history = [.write .ctrl 0x83] ∧ t.ms = .poll) = true := by decide

/-- V2, after the repeated start the read address. -/
theorem test_rstart_done :
    nextIs (exec (.rstart true) (mid .rstart .poll .readByte 0 0 4 [0x01])) (fun t => t.ph = .addrR ∧ t.ms = .load)
      = true := by decide

/-- A6: 0xEC for writing, 0xED for reading. -/
theorem test_send_loads_address :
    nextIs (exec (.send true) (mid .addrW .load .readByte 0 0 4 [])) (fun t => t.history = [.write .data 0xEC]) = true ∧
    nextIs (exec (.send true) (mid .addrR .load .readByte 0 0 4 [])) (fun t => t.history = [.write .data 0xED]) = true := by
  decide

/-- V5, the second data phase sends `BUF[1]`; F1, an unwritten cell faults. -/
theorem test_send_loads_buffer :
    nextIs (exec (.send true) { mid .dataW .load .writeBytes 3 1 4 [] with buf := [(0, 0x11), (1, 0x22)] })
      (fun t => t.history = [.write .data 0x22]) = true ∧
    faultIs (exec (.send true) (mid .dataW .load .writeBytes 1 0 4 [])) .bufUninit = true := by decide

/-- V9: the first ACK byte goes to `BUF[0]` and a second ACK phase follows. -/
theorem test_recvAck_fetch :
    nextIs (exec (.recvAck true) (mid .dataRAck .fetch .readBytes 3 0 4 [0x11]))
      (fun t => t.buf = [(0, 0x11)] ∧ t.idx = 1 ∧ t.ph = .dataRAck) = true := by decide

/-- K4. -/
theorem test_recvAck_issue :
    nextIs (exec (.recvAck true) (mid .dataRAck .issue .readBytes 3 0 4 [])) (fun t => t.history = [.write .ctrl 0x99])
      = true := by decide

/-- V2: the byte goes to `RDATA`, `BUF` is untouched, `STOP` follows. -/
theorem test_recvNack_fetch :
    nextIs (exec (.recvNack true) (mid .dataRNack .fetch .readByte 0 0 4 [0x6F]))
      (fun t => t.rdata = 0x6F ∧ t.buf = [] ∧ t.idx = 1 ∧ t.ph = .stop) = true := by decide

/-- K5, K11. -/
theorem test_recvNack_issue :
    nextIs (exec (.recvNack false) (mid .dataRNack .issue .readByte 0 0 4 [])) (fun t => t.history = [.write .ctrl 0x88])
      = true := by decide

/-- S1, the last step: `STATUS` 0x42, `SEQ` 0x100. -/
theorem test_stop_done :
    nextIs (exec (.stop true) (mid .stop .poll .writeByte 0x6F 1 4 [0x01]))
      (fun t => statusReg t = 0x42 ∧ seqReg t = 0x100 ∧ t.tcnt = 4) = true := by decide

/-- T24: a best-effort stop that completes still reports `Timeout`. -/
theorem test_aborted_done :
    nextIs (exec (.stop true) (mid .aborted .poll .writeByte 0x6F 1 4 [0x01])) (fun t => statusReg t = 0x4A) = true := by
  decide

/-- X2, H5: a refused word sets `CMDERR` only. -/
theorem test_refused_command :
    nextIs (step (placeCommand 0x60000000 base)) (fun t => statusReg t = 0x52 ∧ cmdReg t = 0x10000048) = true := by decide

/-- F2, F3: while busy. -/
theorem test_busy_host_accesses :
    faultIs (hostAccess (.write 0x000 0) (mid .start .issue .writeByte 0 0 0 [])) .hostReentry = true ∧
    faultIs (hostAccess (.read 0x100) (mid .start .issue .writeByte 0 0 0 [])) .hostReentry = true := by decide

/-- H3: a write of `BUFW[3]`. -/
theorem test_bufw_write :
    nextIs (hostAccess (.write 0x103 0x1234ABCD) base) (fun t => t.buf = [(3, 0xCD)]) = true := by decide

/-- Writes keep the cells in order, and replace. -/
theorem test_memory_canonical :
    Memory.write (Memory.write (Memory.write [] 5 1) 2 7) 5 9 = [(2, 7), (5, 9)] := by decide

/-- Z1: reset inside a transaction writes no stop word. -/
theorem test_reset_mid_transaction :
    nextIs (step { mid .rstart .issue .readBytes 2 0 4 [] with inputs := [.rst none] })
      (fun t => statusReg t = 0 ∧ seqReg t = 0 ∧ cmdReg t = 0 ∧ t.history = []) = true := by decide

/-! ### States that meet the hypotheses of the obligations -/

theorem inv_reset : Inv State.reset where
  microStep := rfl
  position := trivial
  ownFlag := rfl
  idxBound := by decide
  budget := Nat.zero_le _
  polling := by decide
  noError := by decide
  validIdle := by decide
  noneClear := by decide
  initClear := by decide
  readClear := by decide
  bufCanon := rfl
  stopWritten := by decide

theorem inv_base : Inv base where
  microStep := rfl
  position := trivial
  ownFlag := rfl
  idxBound := by decide
  budget := by decide
  polling := by decide
  noError := by decide
  validIdle := by decide
  noneClear := by decide
  initClear := by decide
  readClear := by decide
  bufCanon := rfl
  stopWritten := by decide

/-- A send phase of `WRITE_BYTES` about to load its last cell, which has no value. -/
def loading : State := mid .dataW .load .writeBytes 255 254 4 []

theorem inv_loading : Inv loading where
  microStep := rfl
  position := ⟨.inr rfl, by decide⟩
  ownFlag := rfl
  idxBound := by decide
  budget := by decide
  polling := by decide
  noError := by decide
  validIdle := by decide
  noneClear := by decide
  initClear := by decide
  readClear := by decide
  bufCanon := rfl
  stopWritten := by decide

/-- About to issue the start word. -/
def starting : State := { mid .start .issue .readByte 0 0 0 [] with own := false }

theorem inv_starting : Inv starting where
  microStep := rfl
  position := ⟨rfl, rfl⟩
  ownFlag := rfl
  idxBound := by decide
  budget := by decide
  polling := by decide
  noError := by decide
  validIdle := by decide
  noneClear := by decide
  initClear := by decide
  readClear := by decide
  bufCanon := rfl
  stopWritten := by decide

/-- The last poll of `STOP`. -/
def stopping : State := { mid .stop .poll .readByte 0 1 1 [0x01] with history := [.write .ctrl 0x85] }

theorem inv_stopping : Inv stopping where
  microStep := rfl
  position := ⟨rfl, rfl⟩
  ownFlag := rfl
  idxBound := by decide
  budget := by decide
  polling := by decide
  noError := by decide
  validIdle := by decide
  noneClear := by decide
  initClear := by decide
  readClear := by decide
  bufCanon := rfl
  stopWritten := by decide

/-- The `FETCH` of `READ_BYTE`. -/
def fetching : State := mid .dataRNack .fetch .readByte 0 0 4 [0x6F]

theorem inv_fetching : Inv fetching where
  microStep := rfl
  position := ⟨rfl, rfl⟩
  ownFlag := rfl
  idxBound := by decide
  budget := by decide
  polling := by decide
  noError := by decide
  validIdle := by decide
  noneClear := by decide
  initClear := by decide
  readClear := by decide
  bufCanon := rfl
  stopWritten := by decide

theorem witness_DecodeEncodeAgree : (Instr.readBytes 0x7F 0xFF 0xFF).wellFormed = true ∧ Instr.enable.wellFormed = true := by
  decide

theorem witness_EncodeDecodeAgree :
    decode (.command 0x57FFF0FF) = .ok (.readBytes 0x7F 0xFF 255) ∧ decode (.key 0x184) = .ok (.stop false) := by decide

/-- Each row, and a reserved word one bit away from each. -/
theorem witness_CommandRowsDecideDecoding :
    (∃ e, decodeCommand 0x10000100 = .error e) ∧ (∃ e, decodeCommand 0x28000000 = .error e) ∧
    (∃ e, decodeCommand 0x30000800 = .error e) ∧ (∃ e, decodeCommand 0x40000080 = .error e) ∧
    (∃ e, decodeCommand 0x58000000 = .error e) := ⟨⟨_, rfl⟩, ⟨_, rfl⟩, ⟨_, rfl⟩, ⟨_, rfl⟩, ⟨_, rfl⟩⟩

theorem witness_IssuedKeyDecodesToTheActionRun :
    Inv starting ∧ starting.ms = .issue ∧ actionBits? starting.ph = some 0x82 := ⟨inv_starting, rfl, rfl⟩

theorem witness_StepRunsDecodedCommand :
    (placeCommand 0x476F4000 base).inputs = .host (.write 0x000#10 0x476F4000) :: [] ∧
      decodeCommand 0x476F4000 = .ok (.readByte 0x76 0xF4) := by decide

theorem witness_StepRunsThePhaseAction :
    (starting.inputs = [] ∧ phaseInstr? starting.ph starting.en = some (.start true) ∧
      ¬(starting.ph = .init ∧ starting.ms = .load)) ∧
    ({ base with inputs := [.tick] } : State).inputs = .tick :: [] ∧ base.ph = .idle ∧
    (phaseInstr? .init false = some .enable) := by decide

theorem witness_PlacedWordRunsNext :
    decodeTableWord 32 0x10000048 = some (.init 0x48) ∧ (∃ f, commandFields? (.init 0x48) = some f) ∧
    decodeTableWord 16 0x184 = some (.stop false) ∧ commandFields? (.stop false) = none ∧
    decodeTableWord 16 0x001 = some .enable ∧ commandFields? .enable = none :=
  ⟨by decide, ⟨_, rfl⟩, by decide, rfl, by decide, rfl⟩

theorem witness_CommandsAreAccepted : base.ph = .idle ∧ State.reset.ph = .idle := by decide

theorem witness_CmdWriteIsAcceptedRefusedOrFaults :
    starting.ph ≠ .idle ∧ base.ph = .idle ∧ (∃ e, decodeCommand 0x00000000 = .error e) ∧
    (∃ i, decodeCommand 0x100000FF = .ok i) ∧ (∃ i, decodeCommand 0x57FFF0FF = .ok i) :=
  ⟨by decide, by decide, ⟨_, rfl⟩, ⟨_, rfl⟩, ⟨_, rfl⟩⟩

/-- Set by a refusal; cleared by an acceptance; cleared by reset. -/
theorem witness_CmderrIsSetByRefusalAndClearedByAcceptance :
    nextIs (step (placeCommand 0 base)) (fun t => base.cmderr = false ∧ t.cmderr = true) = true ∧
    nextIs (step (placeCommand 0x10000048 { base with cmderr := true })) (fun t => t.cmderr = false) = true ∧
    nextIs (step { base with cmderr := true, inputs := [.rst none] }) (fun t => t.cmderr = false) = true := by decide

theorem witness_CmdReadsBackTheAcceptedWord :
    base.ph = .idle ∧ (∃ i, decodeCommand 0x57FFF0FF = .ok i) ∧
      ∃ t, hostAccess (.write 0x000#10 0x57FFF0FF) base = .next t := ⟨rfl, ⟨_, rfl⟩, ⟨_, rfl⟩⟩

theorem witness_InitMicroSteps :
    ({ base with ph := .init } : State).ph = .init ∧ base.ms = .load ∧ base.inputs = [] ∧
      ({ base with ph := .init, ms := .issue } : State).ms = .issue := by decide

theorem witness_InitRunsToSuccess : State.reset.ph = .idle ∧ State.reset.inputs = [] := by decide

theorem witness_InitRerunIsIdempotent :
    base.ph = .idle ∧ base.inputs = [] ∧ ∃ t t₁, exec (.init 0xFF) base = .next t ∧ stepN 2 t = .next t₁ :=
  ⟨rfl, rfl, _, _, rfl, rfl⟩

theorem witness_FacadeAccessEffects :
    (0x83#8).getLsbD 7 = true ∧ (0x01#8).getLsbD 7 = false ∧ ({ base with answers := [0x01] } : State).answers = 0x01 :: [] := by
  decide

/-- Every action in every phase state that issues it. -/
theorem witness_ActionsIssueTheirControlWord :
    ([(Instr.start true, Phase.start), (.rstart true, .rstart), (.send true, .addrW), (.send true, .regAddr),
      (.send true, .dataW), (.send false, .addrR), (.recvAck true, .dataRAck), (.recvNack true, .dataRNack),
      (.stop true, .stop), (.stop false, .aborted)].map fun c =>
        nextIs (exec c.1 (mid c.2 .issue .readBytes 2 0 0 [])) fun t => t.ms = .poll ∧ t.tcnt = 4) =
      List.replicate 10 true := by decide

theorem witness_SendLoadsItsByte :
    (0xEC#8 = (0x76#7 : DevAddr) ++ 0#1) ∧ (0xED#8 = (0x76#7 : DevAddr) ++ 1#1) ∧
    ([(Phase.addrW, Opcode.readByte), (.regAddr, .readByte), (.dataW, .writeByte), (.dataW, .writeBytes),
      (.addrR, .readBytes)].map fun c =>
        nextIs (exec (.send true) { mid c.1 .load c.2 0xFF 254 0 [] with buf := [(254, 0x5A)] }) fun t => t.ms = .issue) =
      List.replicate 5 true := by decide

theorem witness_UnwrittenCellStopsTheLoad :
    loading.ph = .dataW ∧ loading.ms = .load ∧ loading.opc = .writeBytes ∧
      Memory.read loading.buf loading.idx.toNat = none := by decide

/-- Budget of 2 left and `DONE` = 0; budget of 1 left and `DONE` = 1. -/
theorem witness_PollCountsDownOrGoesOn :
    (doneFlag (facAnswer (mid .start .poll .readByte 0 0 2 [0xFE])) = false ∧ Phase.start ∈ issuingPhases (.start true)) ∧
    (doneFlag (facAnswer (mid .dataRNack .poll .readByte 0 0 1 [0xFF])) = true ∧
      Phase.dataRNack ∈ issuingPhases (.recvNack true)) := by decide

/-- The rows of 42_transactions.md R195, at the boundaries of their conditions: (instruction, `PH`, `OPC`, `CNT`, `IDX`,
next `PH`). -/
def rows : List (Instr × Phase × Opcode × Byte × Byte × Phase) :=
  [(.start true, .start, .writeByte, 0, 0, .addrW), (.send true, .addrW, .readByte, 0, 0, .regAddr),
   (.send true, .regAddr, .writeByte, 0, 0, .dataW), (.send true, .regAddr, .writeBytes, 0, 0, .stop),
   (.send true, .regAddr, .writeBytes, 1, 0, .dataW), (.send true, .regAddr, .readByte, 0, 0, .rstart),
   (.send true, .regAddr, .readBytes, 0, 0, .rstart), (.send true, .regAddr, .readBytes, 1, 0, .rstart),
   (.send true, .dataW, .writeByte, 0x6F, 0, .stop)]

/-- The rest of the rows. -/
def laterRows : List (Instr × Phase × Opcode × Byte × Byte × Phase) :=
  [(.send true, .dataW, .writeBytes, 255, 254, .stop), (.send true, .dataW, .writeBytes, 255, 253, .dataW),
   (.rstart true, .rstart, .readByte, 0, 0, .addrR), (.rstart true, .rstart, .readBytes, 2, 0, .addrR),
   (.send true, .addrR, .readByte, 0, 0, .dataRNack), (.send true, .addrR, .readBytes, 0, 0, .stop),
   (.send true, .addrR, .readBytes, 1, 0, .dataRNack), (.send true, .addrR, .readBytes, 2, 0, .dataRAck),
   (.stop true, .stop, .readByte, 0, 1, .idle), (.stop true, .aborted, .readByte, 0, 0, .idle)]

/-- Each row, on the last poll the budget allows. -/
theorem witness_PhaseSuccessors :
    ((rows.append laterRows).map fun c =>
      nextIs (exec c.1 (mid c.2.1 .poll c.2.2.1 c.2.2.2.1 c.2.2.2.2.1 1 [0x01])) fun t => t.ph = c.2.2.2.2.2) =
      List.replicate 19 true := by decide

/-- The row of R195 with `RD0_FULL` = 0 (V10). -/
theorem witness_PhaseSuccessors_short_read :
    nextIs (exec (.send true)
        { mid .regAddr .poll .readBytes 0 0 1 [0x01] with params := { tmoLessOne := 3, rd0Full := false } })
      (fun t => t.ph = .stop) = true := by decide

/-- Both phases and both reads; the last ACK byte, where `IDX + 1 = CNT - 1`. -/
theorem witness_FetchStoresTheByte :
    nextIs (exec (.recvAck true) (mid .dataRAck .fetch .readBytes 255 253 4 [0x11])) (fun t => t.ph = .dataRNack) = true ∧
    nextIs (exec (.recvNack true) (mid .dataRNack .fetch .readBytes 255 254 4 [0x11]))
      (fun t => t.buf = [(254, 0x11)] ∧ t.ph = .stop) = true ∧ fetching.opc = .readByte := by decide

theorem witness_InstructionsStopElsewhere :
    (∃ f, commandFields? (.init 0) = some f) ∧ starting.ph ≠ .idle ∧ Phase.stop ∉ issuingPhases (.start true) ∧
    (Phase.aborted ∈ issuingPhases (.stop true) ∧ legalMicroStep .aborted .fetch = false) ∧
    ({ base with ph := .init } : State).ms = .load := ⟨⟨_, rfl⟩, by decide, by decide, by decide, by decide⟩

theorem witness_TimeoutEntersAborted :
    (mid .stop .poll .readByte 0 1 1 [0x00]).ms = .poll ∧ Phase.stop ∈ issuingPhases (.stop true) ∧
      (mid .stop .poll .readByte 0 1 1 [0x00]).tcnt = 1 ∧ doneFlag (facAnswer (mid .stop .poll .readByte 0 1 1 [0x00])) = false := by
  decide

theorem witness_AbortedReturnsTimeout :
    doneFlag (facAnswer (mid .aborted .poll .readByte 0 1 4 [0x01])) = true ∧
    doneFlag (facAnswer (mid .aborted .poll .readByte 0 1 1 [0x00])) = false := by decide

/-- `TMO` = 4: three answers stay inside the budget, four use it up, outside and inside `ABORTED`. -/
theorem witness_BudgetIsExactlyTmoPolls :
    Phase.start.isBus = true ∧ Phase.aborted.isBus = true ∧ noneDone [0x00, 0xFE, 0x00] ∧ noneDone [0x00, 0xFE, 0x00, 0x00] ∧
      [0x00#8, 0xFE#8, 0x00#8].length < base.params.tmo ∧ [0x00#8, 0xFE#8, 0x00#8, 0x00#8].length = base.params.tmo ∧
      (mid .start .issue .readByte 0 0 0 [0x00, 0xFE, 0x00, 0x00]).answers = [0x00, 0xFE, 0x00, 0x00] ++ [] := by
  unfold noneDone; decide

theorem witness_WriteByteRunsToSuccess :
    let s : State := { base with answers := [1, 1, 1, 1, 0xFF] }
    s.ph = .idle ∧ s.inputs = [] ∧ s.answers = [1, 1, 1, 1, 0xFF] ++ [] ∧ allDone [1, 1, 1, 1, 0xFF] := by
  unfold allDone; decide

/-- Two bytes to send. -/
theorem witness_WriteBytesRunsToSuccess :
    let s : State := { base with buf := [(0, 0x11), (1, 0x22)], answers := [1, 1, 1, 1, 1, 1] }
    let l : List (Byte × Byte) := [(0x11, 1), (0x22, 1)]
    s.ph = .idle ∧ s.inputs = [] ∧ l.length = (2#8).toNat ∧
    (∀ k, k < l.length → Memory.read s.buf k = (l[k]?).map Prod.fst) ∧
    s.answers = [1, 1, 1] ++ l.map Prod.snd ++ 1 :: [] ∧ allDone [1, 1, 1, 1] ∧ allDone (l.map Prod.snd) := by
  unfold allDone; decide

/-- No byte to send, the buffer empty. -/
theorem witness_WriteBytesRunsToSuccess_zero :
    let s : State := { base with answers := [1, 1, 1, 1] }
    ([] : List (Byte × Byte)).length = (0#8).toNat ∧
    s.answers = [1, 1, 1] ++ (([] : List (Byte × Byte)).map Prod.snd) ++ 1 :: [] ∧ allDone [1, 1, 1, 1] := by
  unfold allDone; decide

theorem witness_ReadByteRunsToSuccess :
    let s : State := { base with answers := [1, 1, 1, 1, 1, 1, 0x6F, 1] }
    s.ph = .idle ∧ s.inputs = [] ∧ s.answers = [1, 1, 1, 1, 1, 1, 0x6F, 1] ++ [] ∧ allDone [1, 1, 1, 1, 1, 1, 1] := by
  unfold allDone; decide

/-- Two bytes to receive. -/
theorem witness_ReadBytesRunsToSuccess :
    let s : State := { base with answers := [1, 1, 1, 1, 1, 1, 0x11, 1, 0x22, 1] }
    let l : List (Byte × Byte) := [(1, 0x11), (1, 0x22)]
    s.ph = .idle ∧ s.inputs = [] ∧ l.length = (2#8).toNat ∧ ((2#8) = 0 → s.params.rd0Full = true) ∧
    s.answers = [1, 1, 1, 1, 1] ++ receiveAnswers l ++ 1 :: [] ∧ allDone [1, 1, 1, 1, 1, 1] ∧
    allDone (l.map Prod.fst) := by
  unfold allDone; decide

/-- None to receive, with `RD0_FULL` = 1. -/
theorem witness_ReadBytesRunsToSuccess_zero :
    let s : State := { base with answers := [1, 1, 1, 1, 1, 1] }
    s.params.rd0Full = true ∧ s.answers = [1, 1, 1, 1, 1] ++ receiveAnswers [] ++ 1 :: [] ∧
    ([] : List (Byte × Byte)).length = (0#8).toNat := by decide

theorem witness_ShortZeroCountRead :
    let s : State := { base with params := { tmoLessOne := 3, rd0Full := false }, answers := [1, 1, 1, 1] }
    s.ph = .idle ∧ s.inputs = [] ∧ s.params.rd0Full = false ∧ s.answers = [1, 1, 1, 1] ++ [] ∧ allDone [1, 1, 1, 1] := by
  unfold allDone; decide

theorem witness_DeadFacadeTimesOut :
    let s : State := { base with answers := List.replicate 8 0x00 }
    commandFields? (.readBytes 0x76 0x10 3) = some (.readBytes, 0x76, 0x10, 3) ∧ Opcode.readBytes.isTransaction = true ∧
      s.ph = .idle ∧ s.inputs = [] ∧ s.answers = List.replicate 8 0x00 ++ [] ∧
      (List.replicate 8 0x00#8).length = 2 * s.params.tmo ∧ noneDone (List.replicate 8 0x00) := by
  unfold noneDone; decide

/-- A `WRITE_BYTES` whose one cell is filled. -/
theorem witness_EveryTransactionEnds :
    Inv { base with buf := [(0, 0x11)] } ∧ commandFields? (.writeBytes 0x76 0x10 1) = some (.writeBytes, 0x76, 0x10, 1) ∧
      ∃ t, exec (.writeBytes 0x76 0x10 1) { base with buf := [(0, 0x11)] } = .next t ∧ bufFilled t := by
  refine ⟨{ inv_base with bufCanon := rfl }, rfl, _, rfl, fun _ k hk => ?_⟩
  have : k < 1 := hk
  interval_cases k; rfl

/-- Two idle states that differ in what earlier commands left; `INIT` completes on both. -/
theorem witness_TransactionsDoNotLeak :
    ({ base with rdata := 0x55, idx := 7, result := .timeout, tcnt := 2 } : State).ph = .idle ∧ base.ph = .idle ∧
    commandFields? (.init 0x20) = some (.init, 0, 0, 0x20) ∧
      ∃ t u, exec (.init 0x20) base = .next t ∧ stepN 2 t = .next u ∧ u.valid = true :=
  ⟨rfl, rfl, rfl, _, _, rfl, rfl, rfl⟩

/-- A peripheral at 0x76 behind a prompt facade. -/
def peripheral : Platform :=
  { address := 0x76, regs := fun _ => some 0, pointer := some 0, mode := .released, enabled := true, toSend := 0,
    launch := .notYet, received := none }

/-- The accesses of P2 (without its `INIT`), oldest first, keep the contract. -/
theorem witness_WriteThenReadEchoes :
    peripheral.conforms
      (((conditionTrace 0x85 1 ++ receiveTrace 0x89 1 0x6F ++ sendTrace 0xED 0x81 1 ++ conditionTrace 0x83 1 ++
          sendTrace 0xF4 0x81 1 ++ sendTrace 0xEC 0x81 1 ++ conditionTrace 0x83 1) ++
        (conditionTrace 0x85 1 ++ sendTrace 0x6F 0x81 1 ++ sendTrace 0xF4 0x81 1 ++ sendTrace 0xEC 0x81 1 ++
          conditionTrace 0x83 1)).reverse) = true ∧
    allDone [1, 1, 1, 1, 1] ∧ allDone [1, 1, 1, 1, 1, 1] ∧ doneFlag 1 = true ∧
    base.en = true ∧ base.ph = .idle ∧ base.inputs = [] := by
  unfold allDone
  exact ⟨by decide, by decide, by decide, by decide, by decide, by decide, by decide⟩

/-- R91, R95, U3: each kind of word on each kind of phase; a `GO` word with `EN` = 1 binds again after one with `EN` = 0. -/
theorem witness_ControllerMustBeOn :
    (0x01#8).getLsbD 7 = false ∧ (0x01#8).getLsbD 0 = true ∧ (0x83#8).getLsbD 7 = true ∧ (0x82#8).getLsbD 0 = false ∧
    ({ peripheral with enabled := false }.after (.write .ctrl 0x01)).enabled = true ∧
    ((peripheral.after (.write .ctrl 0x83)).after (.write .ctrl 0x00)).launch = .unspecified ∧
    ({ peripheral with launch := .completed }.after (.write .ctrl 0x00)).allows (.read .stat 0) = false ∧
    (peripheral.after (.write .ctrl 0x82)).launch = .unspecified ∧
    ((peripheral.after (.write .ctrl 0x82)).after (.write .ctrl 0x83)).launch = .inFlight 0x83 0 ∧
    peripheral.conforms [.write .ctrl 0x82, .write .ctrl 0x83, .read .stat 1, .read .stat 0] = false ∧
    [FacAccess.read .stat 1, .read .stat 0, .read .data 5].all (fun a => !a.begins) = true ∧
    { peripheral with received := some 1 }.allows (.read .data 2) = false := by decide

theorem witness_ResetMeetsTheInvariant : justReset State.reset := rfl

theorem witness_StepKeepsTheInvariant : Inv stopping ∧ ∃ t, step stopping = .next t := ⟨inv_stopping, _, rfl⟩

theorem witness_ReachableStatesObeyTheRules : Reachable State.reset ∧ ∃ t, step State.reset = .next t ∧ Reachable t :=
  ⟨.reset (s := State.reset) rfl, _, rfl, .step (.reset (s := State.reset) rfl) rfl⟩

/-- Each of the two faults, from a state that meets the invariant. -/
theorem witness_OnlyTheSpecsFaultsOccur :
    (Inv loading ∧ step loading = .fault .bufUninit) ∧
    (Inv starting ∧ step { starting with inputs := [.host (.read 0x100)] } = .fault .hostReentry) :=
  ⟨⟨inv_loading, rfl⟩, inv_starting, rfl⟩

/-- Boundary indices: the buffer window's ends are forbidden, their neighbours are not. -/
theorem witness_BusyHostAccessStopsExactlyWhereForbidden :
    starting.ph ≠ .idle ∧ forbiddenWhileBusy (.read 0x100) = true ∧ forbiddenWhileBusy (.write 0x1FF 0) = true ∧
    forbiddenWhileBusy (.write 0x000 0) = true ∧ forbiddenWhileBusy (.read 0x000) = false ∧
    forbiddenWhileBusy (.read 0x0FF) = false ∧ forbiddenWhileBusy (.write 0x200 0) = false := by decide

theorem witness_TransactionsAlwaysEndWithStop :
    Inv stopping ∧ stopping.ph.isBus = true ∧ nextIs (step stopping) (fun t => t.ph = .idle) = true :=
  ⟨inv_stopping, rfl, by decide⟩

/-- A stop word being written, and `OWN` falling. -/
theorem witness_BusIsHeldUntilStop :
    nextIs (step (mid .aborted .issue .readByte 0 0 0 []))
      (fun t => t.history = .write .ctrl 0x85 :: [] ∧ (0x85#8).getLsbD 2 = true) = true ∧
    nextIs (step stopping) (fun t => stopping.own = true ∧ t.own = false) = true := by decide

theorem witness_FacadeAccessesAreExactlyThese : (∃ t, step loading = .next t) ∨ ∃ t, step stopping = .next t :=
  .inr ⟨_, rfl⟩

theorem witness_CtrlWordsAreExactlyTheSeven :
    nextIs (step starting) (fun t => t.history = .write .ctrl 0x83 :: starting.history) = true ∧
    nextIs (step { starting with en := false }) (fun t => t.history = .write .ctrl 0x82 :: starting.history) = true ∧
    nextIs (step { base with ph := .init, ms := .issue }) (fun t => t.history = .write .ctrl 0x01 :: base.history) = true := by
  decide

/-- `RDATA` changing, and a cell of `BUF` changing. -/
theorem witness_ReadDataGoesWhereItBelongs :
    Inv fetching ∧ nextIs (step fetching) (fun t => t.rdata ≠ fetching.rdata) = true ∧ fetching.inputs = [] ∧
    nextIs (step (mid .dataRNack .fetch .readBytes 1 0 4 [0x11])) (fun t => t.buf ≠ []) = true :=
  ⟨inv_fetching, by decide, rfl, by decide⟩

/-- Each of the elements changing. -/
theorem witness_EachElementHasItsWriter :
    nextIs (step { base with ph := .init, ms := .issue, en := false }) (fun t => t.en ≠ false) = true ∧
    nextIs (step { base with ph := .init, div := 0 }) (fun t => t.div ≠ 0) = true ∧
    nextIs (step (placeCommand 0x276F406F base)) (fun t => t.dev ≠ base.dev) = true ∧
    nextIs (step (mid .aborted .poll .readByte 0 0 1 [0x00])) (fun t => t.result ≠ .success) = true := by decide

/-- Outside `FETCH`, and in it with the byte going to `BUF[0]` and to `RDATA`. -/
theorem witness_InstructionsLeaveMemory :
    (∃ t, exec (.start true) starting = .next t) ∧
    (∃ t, exec (.recvNack true) (mid .dataRNack .fetch .readBytes 1 0 4 [0x11]) = .next t) ∧
    ∃ t, exec (.recvNack true) fetching = .next t := ⟨⟨_, rfl⟩, ⟨_, rfl⟩, ⟨_, rfl⟩⟩

/-- A command, an action, and `ENABLE`. -/
theorem witness_InstructionsLeaveRegisters :
    (∃ t, exec (.init 0) base = .next t) ∧ (∃ t, exec (.stop true) stopping = .next t) ∧
    ∃ t, exec .enable { base with ph := .init, ms := .issue } = .next t := ⟨⟨_, rfl⟩, ⟨_, rfl⟩, ⟨_, rfl⟩⟩

theorem witness_ResetCycleAbandonsEverything :
    ({ stopping with inputs := [.rst (some (.read 0x001))] } : State).inputs = .rst (some (.read 0x001)) :: [] ∧
    ({ stopping with inputs := [.rst none] } : State).inputs = .rst none :: [] := by decide

/-- Idle, with the last cell written; and busy. -/
theorem witness_BufferWindow :
    base.ph = .idle ∧ Memory.read [(255, 0x5A#8)] (255#8).toNat = some 0x5A ∧ starting.ph ≠ .idle := by decide

/-- The ends of the unmapped ranges and of the read-only registers. -/
theorem witness_UnmappedAndReadOnlyIndices :
    ([0x005#10, 0x0FF#10, 0x200#10, 0x3FF#10].map hostReg) = List.replicate 4 .unmapped ∧
    hostReg 0x001 = .status ∧ hostReg 0x004 = .divr ∧ hostReg 0x100 = .bufw 0 ∧ hostReg 0x1FF = .bufw 255 := by decide

end Sys2Proof.Tests
end

namespace Sys2Proof.Machine

/-! ### The turn of the sequencer (00_scope.md R13) -/

/-- A tick gives the turn to the sequencer and is used up. -/
theorem step_of_tick {s : State} {l : List Input} (h : s.inputs = .tick :: l) :
    step s = sequencerStep { s with inputs := l } := by
  simp [step, h]

theorem sequencerStep_of_phaseInstr {s : State} {i : Instr} (hi : phaseInstr? s.ph s.en = some i)
    (hd : ¬(s.ph = .init ∧ s.ms = .load)) : sequencerStep s = exec i s := by
  simp [sequencerStep, hi, hd]

theorem sequencerStep_init_load {s : State} (h : s.ph = .init ∧ s.ms = .load) :
    sequencerStep s = .next (configureDivisor s) := by
  simp [sequencerStep, h]

theorem sequencerStep_idle {s : State} (h : s.ph = .idle) : sequencerStep s = .next s := by
  simp [sequencerStep, h, phaseInstr?]

/-- The three branches of the sequencer's turn, in the order of its definition. -/
theorem sequencerStep_by_phase (s : State) :
    (∀ i, phaseInstr? s.ph s.en = some i → ¬(s.ph = .init ∧ s.ms = .load) → sequencerStep s = exec i s) ∧
    (s.ph = .init ∧ s.ms = .load → sequencerStep s = .next (configureDivisor s)) ∧
    (s.ph = .idle → sequencerStep s = .next s) :=
  ⟨fun _ => sequencerStep_of_phaseInstr, sequencerStep_init_load, sequencerStep_idle⟩

/-- Settles O9: with no input left or a tick at its head, `step` is the sequencer's turn, and taking the tick off
`inputs` leaves `PH`, `MS` and `EN`, by which the turn's branch is chosen. -/
theorem stepRunsThePhaseAction : Obligations.StepRunsThePhaseAction := by
  unfold Obligations.StepRunsThePhaseAction
  rintro s u (⟨hs, rfl⟩ | ⟨l, hs, rfl⟩)
  · rw [step_of_no_inputs hs]
    exact sequencerStep_by_phase u
  · rw [step_of_tick hs]
    exact sequencerStep_by_phase { s with inputs := l }

/-! ### The facade port (20_memory.md R73, R80, R91, R95) -/

/-- The mask that clears `DONE` keeps bits 7:1 and puts 0 in bit 0. -/
theorem and_clearDone_eq_append (b : Byte) : b &&& 0xFE#8 = b.extractLsb' 1 7 ++ 0#1 := by
  apply BitVec.eq_of_getLsbD_eq; intro i hi
  simp only [BitVec.getLsbD_and, BitVec.getLsbD_append, BitVec.getLsbD_extractLsb']
  interval_cases i <;> simp

/-- A `CTRL` word with `GO = 1` is stored and clears `DONE`. -/
theorem Facade.store_ctrl_of_go (f : Facade) {v : Byte} (h : goFlag v = true) :
    f.store .ctrl v = { f with ctrl := v, stat := f.stat.extractLsb' 1 7 ++ 0#1 } := by
  simp [Facade.store, h, and_clearDone_eq_append]

/-- A `CTRL` word with `GO = 0` is stored and leaves `STAT`. -/
theorem Facade.store_ctrl_of_not_go (f : Facade) {v : Byte} (h : goFlag v = false) :
    f.store .ctrl v = { f with ctrl := v } := by
  simp [Facade.store, h]

/-- All that a `CTRL` write with `GO = 1` does to the state. -/
theorem facWrite_ctrl_of_go (s : State) {v : Byte} (h : goFlag v = true) :
    facWrite .ctrl v s = { s with
      facade := { s.facade with ctrl := v, stat := s.facade.stat.extractLsb' 1 7 ++ 0#1 }
      history := .write .ctrl v :: s.history } := by
  rw [facWrite, Facade.store_ctrl_of_go _ h]

/-- All that a `CTRL` write with `GO = 0` does to the state. -/
theorem facWrite_ctrl_of_not_go (s : State) {v : Byte} (h : goFlag v = false) :
    facWrite .ctrl v s = { s with
      facade := { s.facade with ctrl := v }, history := .write .ctrl v :: s.history } := by
  rw [facWrite, Facade.store_ctrl_of_not_go _ h]

/-- A facade read with an answer listed gives that answer and uses it up; no free value is counted. -/
theorem facRead_of_answers {s : State} {v : Byte} {l : List Byte} (h : s.answers = v :: l) (r : FacReg) :
    facRead r s = { s with
      facade := s.facade.observe r v, history := .read r v :: s.history, answers := l } := by
  simp [facRead, facAnswer_of_answers h, h]

theorem facAnswer_of_no_answers {s : State} (h : s.answers = []) :
    facAnswer s = Config.facadeAnswer s.freeNext := by
  simp [facAnswer, h]

/-- A facade read with no answer listed is the read of a listed free value, and counts it. -/
theorem facRead_of_no_answers {s : State} (h : s.answers = []) (r : FacReg) :
    facRead r s = { facRead r { s with answers := [facAnswer s] } with freeNext := s.freeNext + 1 } := by
  rw [facRead_of_answers (s := { s with answers := [facAnswer s] }) (v := facAnswer s) (l := []) rfl]
  simp [facRead, h]

/-- Settles O18: the writes from what `Facade.store` keeps for each register, the reads from whether an answer is
listed. -/
theorem facadeAccessEffects : Obligations.FacadeAccessEffects := by
  unfold Obligations.FacadeAccessEffects
  intro s v
  refine ⟨?writes, fun l h => ?listed, fun h => ?free⟩
  case writes => exact ⟨rfl, rfl, facWrite_ctrl_of_go s, facWrite_ctrl_of_not_go s⟩
  case listed =>
    exact ⟨facAnswer_of_answers h, facRead_of_answers h .stat, facRead_of_answers h .data,
      facRead_of_answers h .ctrl, facRead_of_answers h .baud⟩
  case free => exact ⟨facAnswer_of_no_answers h, facRead_of_no_answers h⟩

end Sys2Proof.Machine

namespace Sys2Proof.Machine

/-! ### Every step keeps the invariant (10_state.md R52)

One lemma for each way in which the machine moves: elements outside the invariant change, the micro-step advances, a
phase is entered, a command ends or is accepted, the CORE is reset. The step lemma is assembled from them. -/

/-- A command has 255 data phases at most, so counting one more does not wrap. -/
theorem dataPhases_le (s : State) : dataPhases s ≤ 255 := by
  unfold dataPhases
  have := s.arg.isLt
  cases s.opc <;> simp only [State.cnt] <;> omega

theorem dataPhases_congr {s t : State} (ho : t.opc = s.opc) (ha : t.arg = s.arg) : dataPhases t = dataPhases s := by
  simp [dataPhases, State.cnt, ho, ha]

theorem dataPhases_of_byte {s : State} (h : s.opc = .writeByte ∨ s.opc = .readByte) : dataPhases s = 1 := by
  rcases h with h | h <;> simp [dataPhases, h]

theorem dataPhases_of_bytes {s : State} (h : s.opc = .writeBytes ∨ s.opc = .readBytes) : dataPhases s = s.cnt := by
  rcases h with h | h <;> simp [dataPhases, h]

/-- The number of data phases is the latched command's, wherever the sequencer stands. -/
@[simp] theorem dataPhases_setPosition (s : State) (p : Phase) (i : Byte) :
    dataPhases { s with ph := p, idx := i } = dataPhases s := rfl

theorem toNat_idx_succ {s : State} (h : s.idx.toNat < dataPhases s) : (s.idx + 1).toNat = s.idx.toNat + 1 := by
  have := dataPhases_le s
  rw [BitVec.toNat_add_of_lt (by simp; omega)]; rfl

/-- What the invariant does not constrain by itself may change to what any state `u` has there, if `BUF` stays
canonical and the last `CTRL` word stays while a stop word is being polled. -/
theorem Inv.changeOutside {s : State} (h : Inv s) (u : State) (hbuf : Memory.wf u.buf = true)
    (hctrl : s.ms = .poll → lastCtrl u.history = lastCtrl s.history) :
    Inv { s with
      div := u.div, cmderr := u.cmderr, rdata := u.rdata, buf := u.buf, facade := u.facade, hrdata := u.hrdata,
      history := u.history, inputs := u.inputs, answers := u.answers, freeNext := u.freeNext } :=
  { h with
    bufCanon := hbuf
    stopWritten := fun hp hm => (hctrl hm).trans (h.stopWritten hp hm) }

theorem Inv.facRead {s : State} (h : Inv s) (r : FacReg) : Inv (facRead r s) :=
  h.changeOutside (Machine.facRead r s) h.bufCanon fun _ => rfl

theorem Inv.facWrite {s : State} (h : Inv s) (r : FacReg) (v : Byte) (hm : s.ms ≠ .poll) : Inv (facWrite r v s) :=
  h.changeOutside (Machine.facWrite r v s) h.bufCanon fun hp => absurd hp hm

theorem Inv.setInputs {s : State} (h : Inv s) (l : List Input) : Inv { s with inputs := l } :=
  h.changeOutside { s with inputs := l } h.bufCanon fun _ => rfl

theorem Inv.storeReceived {s : State} (h : Inv s) (d : Byte) : Inv (storeReceived d s) := by
  obtain ⟨-, e⟩ | ⟨-, e⟩ := storeReceived_cases d s <;> rw [e]
  · exact h.changeOutside { s with rdata := d } h.bufCanon fun _ => rfl
  · exact h.changeOutside { s with buf := Memory.write s.buf s.idx.toNat d }
      (Memory.wf_write_byte s.idx d h.bufCanon) fun _ => rfl

/-- `OWN` is 1 in a bus phase once its `ISSUE` is behind. -/
theorem Inv.own_of_bus {s : State} (h : Inv s) (hb : s.ph.isBus = true) (hm : s.ms ≠ .issue) : s.own = true := by
  rw [h.ownFlag]
  cases hp : s.ph <;> simp_all [ownExpected, Phase.isBus]

theorem Inv.not_valid_of_bus {s : State} (h : Inv s) (hb : s.ph.isBus = true) : s.valid ≠ true := by
  intro hv
  simp [h.validIdle hv, Phase.isBus] at hb

/-- The micro-step advances within the phase, to one other than `POLL`. -/
theorem Inv.setMicroStep {s : State} (h : Inv s) (m : MicroStep) (hl : legalMicroStep s.ph m = true)
    (ho : ownExpected s.ph m = ownExpected s.ph s.ms) (hm : m ≠ .poll) : Inv { s with ms := m } :=
  { h with
    microStep := hl
    ownFlag := h.ownFlag.trans ho.symm
    polling := fun hp => absurd hp hm
    stopWritten := fun _ hp => absurd hp hm }

/-- `ISSUE`: the phase's word is written, `START` takes the bus, and the budget is loaded. -/
theorem Inv.issueWord {s : State} (h : Inv s) (hb : s.ph.isBus = true) :
    Inv (issueWord s.ph.word s.en s) :=
  { h with
    microStep := by cases hp : s.ph <;> simp_all [legalMicroStep, Phase.isBus]
    ownFlag := by
      rw [issueWord_own, issueWord_ph, issueWord_ms, h.ownFlag]
      cases hp : s.ph <;> simp_all [ownExpected, Phase.isBus]
    budget := Nat.le_refl _
    polling := fun _ => Nat.succ_pos _
    -- the word just written is the stop word in the two phases that issue it
    stopWritten := fun hp _ => by
      have hw : s.ph.word = stopBits := by
        rcases hp with hp | hp <;> rw [issueWord_ph] at hp <;> simp [hp, Phase.word]
      rw [issueWord_history, hw]; rfl }

theorem legalMicroStep_first (p : Phase) (ho : ownExpected p (firstMicroStep p) = true) :
    legalMicroStep p (firstMicroStep p) = true := by
  revert ho; cases p <;> decide

/-- A phase after `START` is entered from a bus phase whose `ISSUE` is behind. -/
theorem Inv.enterPhase {s : State} (h : Inv s) (hb : s.ph.isBus = true) (hm : s.ms ≠ .issue) {p : Phase} {i : Byte}
    {k : Nat} (ho : ownExpected p (firstMicroStep p) = true) (hi : i.toNat ≤ dataPhases s) (hk : k ≤ s.tcnt)
    (hp : legalPosition { s with ph := p, idx := i }) : Inv (enter p { s with idx := i, tcnt := k }) :=
  have hf : firstMicroStep p ≠ .poll := by cases p <;> decide
  { h with
    microStep := legalMicroStep_first p ho
    position := hp
    ownFlag := (h.own_of_bus hb hm).trans ho.symm
    idxBound := hi
    budget := hk.trans h.budget
    polling := fun hp => absurd hp hf
    validIdle := fun hv => absurd hv (h.not_valid_of_bus hb)
    stopWritten := fun _ hp => absurd hp hf }

/-- A command ends; `INIT` may have set `EN`. -/
theorem Inv.finish {s : State} (h : Inv s) {c : Status} (hc : c ≠ .error) {e : Bool} {k : Nat} (hk : k ≤ s.tcnt) :
    Inv (finish c { s with en := e, tcnt := k }) :=
  { h with
    microStep := rfl
    position := trivial
    ownFlag := rfl
    budget := hk.trans h.budget
    polling := nofun
    noError := hc
    validIdle := fun _ => rfl
    stopWritten := nofun }

theorem Inv.isBus_of_poll {s : State} (h : Inv s) (hm : s.ms = .poll) : s.ph.isBus = true := by
  have hl := h.microStep
  cases hp : s.ph <;> simp_all [legalMicroStep, Phase.isBus]

/-- A bus phase belongs to one of the four transaction commands. -/
theorem Inv.isTransaction_of_bus {s : State} (h : Inv s) (hb : s.ph.isBus = true) : s.opc.isTransaction = true := by
  have hpos := h.position
  unfold legalPosition at hpos
  cases hp : s.ph <;> cases ho : s.opc <;> simp_all [Phase.isBus, Opcode.isTransaction, Opcode.isRead]

/-- A phase that ends goes on to a legal position (42_transactions.md R195) or ends the command. -/
theorem Inv.phaseDone {s t : State} (h : Inv s) (hm : s.ms = .poll) (hd : phaseDone s = .next t) : Inv t := by
  have hb := h.isBus_of_poll hm
  have hi : s.ms ≠ .issue := by simp [hm]
  have enterSame {p : Phase} (ho : ownExpected p (firstMicroStep p) = true) (hp : legalPosition { s with ph := p }) :
      Inv (enter p s) := h.enterPhase hb hi ho h.idxBound le_rfl hp
  have enterNext {p : Phase} (ho : ownExpected p (firstMicroStep p) = true) (hlt : s.idx.toNat < dataPhases s)
      (hp : legalPosition { s with ph := p, idx := s.idx + 1 }) : Inv (enter p { s with idx := s.idx + 1 }) :=
    h.enterPhase hb hi ho (by rw [toNat_idx_succ hlt]; exact hlt) le_rfl hp
  have hpos := h.position
  rcases phaseDone_cases hd with ⟨hp, rfl⟩ | ⟨hp, rfl⟩ | ⟨hp, ho, rfl⟩ | ⟨hp, ho, hc, rfl⟩ | ⟨hp, ho, hc, rfl⟩ |
    ⟨hp, ho, rfl⟩ | ⟨hp, ho, hc, rfl⟩ | ⟨hp, ho, hc, rfl⟩ | ⟨hp, ho, rfl⟩ | ⟨hp, ho, hc, rfl⟩ | ⟨hp, ho, hc, rfl⟩ |
    ⟨hp, ho, rfl⟩ | ⟨hp, ho, rfl⟩ | ⟨hp, ho, hc, rfl⟩ | ⟨hp, ho, hc, rfl⟩ | ⟨hp, ho, hc, rfl⟩ | ⟨hp, rfl⟩ | ⟨hp, rfl⟩ <;>
    simp only [legalPosition, hp] at hpos
  · exact enterSame rfl hpos
  · exact enterSame rfl hpos
  · exact enterSame rfl ⟨.inl ho, by simp [dataPhases_of_byte (.inl ho), hpos]⟩
  · exact enterSame rfl ⟨hpos.1, by simp [dataPhases_of_bytes (.inl ho), hpos, hc]⟩
  · exact enterSame rfl ⟨.inr ho, by simp [dataPhases_of_bytes (.inl ho), hpos, Nat.pos_of_ne_zero hc]⟩
  · exact enterSame rfl ⟨by simp [ho, Opcode.isRead], hpos.2⟩
  · exact enterSame rfl ⟨hpos.1, by simp [dataPhases_of_bytes (.inr ho), hpos, hc]⟩
  · exact enterSame rfl ⟨by simp [ho, Opcode.isRead], hpos.2⟩
  · have hone := dataPhases_of_byte (.inl ho)
    have hsucc := toNat_idx_succ hpos.2
    exact enterNext rfl hpos.2
      ⟨by simp [ho, Opcode.isTransaction], by simp only [dataPhases_setPosition, hsucc]; omega⟩
  · have hcnt := dataPhases_of_bytes (.inl ho)
    have hsucc := toNat_idx_succ hpos.2
    exact enterNext rfl hpos.2
      ⟨by simp [ho, Opcode.isTransaction], by simp only [dataPhases_setPosition, hsucc]; omega⟩
  · have hcnt := dataPhases_of_bytes (.inl ho)
    exact enterNext rfl hpos.2 ⟨.inr ho, by simp only [dataPhases_setPosition, toNat_idx_succ hpos.2]; omega⟩
  · exact enterSame rfl hpos
  · exact enterSame rfl ⟨hpos.1, by simp [dataPhases_of_byte (.inr ho), hpos]⟩
  · exact enterSame rfl ⟨by simp [ho, Opcode.isTransaction], by simp [dataPhases_of_bytes (.inr ho), hpos, hc]⟩
  · exact enterSame rfl ⟨hpos.1, by simp [dataPhases_of_bytes (.inr ho), hpos, hc]⟩
  · exact enterSame rfl ⟨ho, by simp [dataPhases_of_bytes (.inr ho), hpos]; omega⟩
  · exact h.finish (c := .success) nofun le_rfl
  · exact h.finish (c := .timeout) nofun le_rfl

/-- A poll that saw no `DONE` counts down with budget left, and ends the phase without. -/
theorem Inv.pollNotDone {s : State} (h : Inv s) (hm : s.ms = .poll) : Inv (pollNotDone s) := by
  have hb := h.isBus_of_poll hm
  rcases pollNotDone_cases s with ⟨hk, e⟩ | ⟨-, -, e⟩ | ⟨-, hp, e⟩ <;> rw [e]
  · exact { h with
      budget := (Nat.sub_le _ _).trans h.budget
      polling := fun _ => Nat.le_sub_of_add_le hk }
  · exact h.finish (c := .timeout) nofun (Nat.zero_le _)
  · exact h.enterPhase hb (by simp [hm]) rfl h.idxBound (Nat.zero_le _) (h.isTransaction_of_bus hb)

theorem Inv.poll {s t : State} (h : Inv s) (hm : s.ms = .poll) (hs : poll s = .next t) : Inv t := by
  have hr := h.facRead .stat
  rcases poll_cases hs with ⟨-, hp, rfl⟩ | ⟨-, -, hd⟩ | ⟨-, rfl⟩
  · refine hr.setMicroStep .fetch ?legal ?own nofun <;> cases hph : s.ph <;>
      simp_all [Phase.isReceive, legalMicroStep, ownExpected]
  · exact hr.phaseDone hm hd
  · exact hr.pollNotDone hm

@[simp] theorem storeReceived_opc (d : Byte) (s : State) : (storeReceived d s).opc = s.opc := by
  unfold storeReceived; split <;> rfl
@[simp] theorem storeReceived_arg (d : Byte) (s : State) : (storeReceived d s).arg = s.arg := by
  unfold storeReceived; split <;> rfl
@[simp] theorem storeReceived_ph (d : Byte) (s : State) : (storeReceived d s).ph = s.ph := by
  unfold storeReceived; split <;> rfl
@[simp] theorem storeReceived_ms (d : Byte) (s : State) : (storeReceived d s).ms = s.ms := by
  unfold storeReceived; split <;> rfl
@[simp] theorem storeReceived_idx (d : Byte) (s : State) : (storeReceived d s).idx = s.idx := by
  unfold storeReceived; split <;> rfl

/-- A receive phase has its data phase still to complete. -/
theorem idx_lt_of_receive {s : State} (hr : s.ph.isReceive = true) (hpos : legalPosition s) :
    s.idx.toNat < dataPhases s := by
  cases hp : s.ph <;> simp [hp, Phase.isReceive] at hr <;> simp only [legalPosition, hp] at hpos <;> omega

theorem ownExpected_afterReceive (n : Byte) (s : State) :
    ownExpected (afterReceive n s) (firstMicroStep (afterReceive n s)) = true := by
  unfold afterReceive
  split
  · split <;> rfl
  · rfl

/-- After its receive phase the command has as many data phases to go as the next phase says (R158). -/
theorem legalPosition_afterReceive {s : State} (hr : s.ph.isReceive = true) (hpos : legalPosition s) :
    legalPosition { s with ph := afterReceive (s.idx + 1) s, idx := s.idx + 1 } := by
  have hsucc := toNat_idx_succ (idx_lt_of_receive hr hpos)
  cases hp : s.ph <;> simp [hp, Phase.isReceive] at hr <;> simp only [legalPosition, hp] at hpos
  case dataRAck =>
    obtain ⟨ho, hlt⟩ := hpos
    rw [dataPhases_of_bytes (.inr ho)] at hlt
    by_cases hc : (s.idx + 1).toNat + 1 = s.cnt
    · simp only [afterReceive, hp, hc, if_true]
      exact ⟨by simp [ho, Opcode.isRead], hc.trans (dataPhases_of_bytes (.inr ho)).symm⟩
    · simp only [afterReceive, hp, hc, if_true, if_false]
      exact ⟨ho, by simp only [dataPhases_setPosition, dataPhases_of_bytes (.inr ho)]; omega⟩
  case dataRNack =>
    obtain ⟨ho, hlast⟩ := hpos
    simp only [afterReceive, hp, reduceCtorEq, if_false]
    exact ⟨by cases hopc : s.opc <;> simp_all [Opcode.isRead, Opcode.isTransaction], hsucc.trans hlast⟩

theorem Inv.fetch {s : State} (h : Inv s) (hr : s.ph.isReceive = true) (hm : s.ms = .fetch) : Inv (fetch s) := by
  have hb : s.ph.isBus = true := by cases h : s.ph <;> simp_all [Phase.isReceive, Phase.isBus]
  have hlt := idx_lt_of_receive hr h.position
  have hu := (h.facRead .data).storeReceived (facAnswer s)
  refine hu.enterPhase (by simpa using hb) (by simp [hm]) (ownExpected_afterReceive _ s) ?bound le_rfl ?position
  case bound =>
    rw [toNat_idx_succ hlt, dataPhases_congr (s := s) (t := Machine.storeReceived _ _) (by simp) (by simp)]
    exact hlt
  case position =>
    have := legalPosition_afterReceive hr h.position
    simpa [legalPosition, dataPhases, State.cnt] using this

/-- Everything the sequencer does keeps the invariant. -/
theorem Inv.sequencerStep {s t : State} (h : Inv s) (hs : sequencerStep s = .next t) : Inv t := by
  rcases sequencerStep_cases hs with ⟨-, rfl⟩ | ⟨hp, hm, rfl⟩ | ⟨hp, hm, rfl⟩ | ⟨hp, hm, hl⟩ | ⟨hp, hm, rfl⟩ |
    ⟨hp, hm, hl⟩ | ⟨hp, hm, rfl⟩
  · exact h
  · have hw := h.changeOutside (configureDivisor s) h.bufCanon (by simp [hm])
    exact hw.setMicroStep .issue (by simp [hp, legalMicroStep]) (by simp [hp, ownExpected]) nofun
  · exact (h.facWrite .ctrl enableWord (by simp [hm])).finish (c := .success) nofun le_rfl
  · obtain ⟨b, -, rfl⟩ := loadByte_cases hl
    refine (h.facWrite .data b (by simp [hm])).setMicroStep .issue ?legal ?own nofun <;> cases hph : s.ph <;>
      simp_all [Phase.isSend, legalMicroStep, ownExpected]
  · exact h.issueWord hp
  · exact h.poll hm hl
  · exact h.fetch hp hm

/-- An accepted command: the latch has the fields of one of the five commands, and its first phase begins. -/
theorem Inv.acceptCommand {s : State} (h : Inv s) (hp : s.ph = .idle) {i : Instr} {o : Opcode} {d : DevAddr}
    {r a : Byte} (hf : commandFields? i = some (o, d, r, a)) : Inv (acceptCommand o d r a s) := by
  have hown : s.own = false := by rw [h.ownFlag, hp]; rfl
  cases i <;> simp [commandFields?] at hf <;> obtain ⟨rfl, rfl, rfl, rfl⟩ := hf
  all_goals
    exact { h with
      microStep := rfl
      position := by simp [legalPosition, Opcode.isTransaction]
      ownFlag := hown
      idxBound := Nat.zero_le _
      polling := nofun
      validIdle := nofun
      noneClear := nofun
      initClear := by simp
      readClear := by simp
      stopWritten := nofun }

theorem Inv.hostAccess {s t : State} {a : HostAccess} (h : Inv s) (hs : hostAccess a s = .next t) : Inv t := by
  rcases hostAccess_cases hs with ⟨w, n, rfl⟩ | ⟨i, v, -, rfl⟩ | ⟨-, rfl⟩ | ⟨i, o, d, r, x, hf, hp, rfl⟩
  · exact h.changeOutside { s with hrdata := w, freeNext := n } h.bufCanon fun _ => rfl
  · exact h.changeOutside { s with buf := Memory.write s.buf i.toNat v }
      (Memory.wf_write_byte i v h.bufCanon) fun _ => rfl
  · exact h.changeOutside (refuseCommand s) h.bufCanon fun _ => rfl
  · exact h.acceptCommand hp hf

/-- The reset values meet the invariant, whatever stands in what a reset keeps. -/
theorem inv_of_resetValues (u : State) :
    Inv { State.reset with
      facade := u.facade, hrdata := u.hrdata, params := u.params, history := u.history, inputs := u.inputs,
      answers := u.answers, freeNext := u.freeNext } where
  microStep := rfl
  position := trivial
  ownFlag := rfl
  idxBound := Nat.zero_le _
  budget := Nat.zero_le _
  polling := nofun
  noError := nofun
  validIdle := nofun
  noneClear := fun _ => ⟨rfl, rfl, rfl⟩
  initClear := nofun
  readClear := nofun
  bufCanon := rfl
  stopWritten := nofun

theorem inv_resetCycle (a : Option HostAccess) (s : State) : Inv (resetCycle a s) :=
  inv_of_resetValues (resetCycle a s)

/-- Settles O39: whoever acts, what it can do to the state is one of the moves above. -/
theorem stepKeepsTheInvariant : Obligations.StepKeepsTheInvariant := by
  unfold Obligations.StepKeepsTheInvariant
  intro s t h hs
  rcases step_cases hs with ⟨-, hs⟩ | ⟨l, -, hs⟩ | ⟨a, l, -, hs⟩ | ⟨a, l, -, rfl⟩
  · exact h.sequencerStep hs
  · exact (h.setInputs l).sequencerStep hs
  · exact (h.setInputs l).hostAccess hs
  · exact inv_resetCycle a _

end Sys2Proof.Machine

namespace Sys2Proof.Machine

/-! ### The eight clauses of 10_state.md R52 -/

/-- The invariant gives R52, clause by clause. -/
theorem Inv.stateRules {s : State} (h : Inv s) : StateRules s := by
  have hms := h.microStep
  have hpos := h.position
  have hown := h.ownFlag
  have hidx := h.idxBound
  constructor
  case a =>
    intro hp
    rw [hp] at hms hown
    exact ⟨hown, by cases hm : s.ms <;> simp_all [legalMicroStep]⟩
  case b => cases s.ph <;> decide
  case c =>
    unfold legalPosition at hpos
    constructor
    · rintro ⟨h1, h10⟩
      have hb : s.ph.isBus = true := by cases hp : s.ph <;> simp_all [Phase.code, Phase.isBus]
      have := h.isTransaction_of_bus hb
      cases ho : s.opc <;> simp_all [Opcode.isTransaction, Opcode.code]
    · intro hp
      simp only [hp] at hpos
      simp [hpos, Opcode.code]
  case d =>
    constructor
    · intro ho
      have hcnt : dataPhases s = s.cnt :=
        dataPhases_of_bytes (by cases hopc : s.opc <;> simp_all [Opcode.code])
      refine ⟨hcnt ▸ hidx, ?_⟩
      rintro (hp | hp | hp) <;> simp only [legalPosition, hp] at hpos <;> omega
    · intro ho
      have hone : dataPhases s = 1 := dataPhases_of_byte (by cases hopc : s.opc <;> simp_all [Opcode.code])
      exact hone ▸ hidx
  case e => exact fun hm => ⟨h.polling hm, h.budget⟩
  case f =>
    have := h.noError
    cases hr : s.result <;> simp_all [Status.code]
  case g => exact h.validIdle
  case h =>
    intro ho
    rw [hown] at ho
    cases hp : s.ph <;> simp_all [ownExpected]

theorem inv_of_justReset {s : State} (h : justReset s) : Inv s := by
  rw [h]
  exact inv_of_resetValues { State.reset with
    params := s.params, facade := s.facade, inputs := s.inputs, answers := s.answers }

/-- The invariant holds of every state that a run from reset reaches. -/
theorem Reachable.inv {s : State} (h : Reachable s) : Inv s := by
  induction h with
  | reset h => exact inv_of_justReset h
  | step _ hs ih => exact stepKeepsTheInvariant _ _ ih hs

/-- Settles O40: every reachable state meets the invariant, which gives the clauses. -/
theorem reachableStatesObeyTheRules : Obligations.ReachableStatesObeyTheRules :=
  fun _ h => h.inv.stateRules

/-! ### What one micro-step of a phase leaves in the registers (10_state.md R46) -/

/-- The frame that the four micro-steps of a phase have in common: `RDATA` is for `FETCH`, and `RESULT` and
`VALID` are for the end of the command. -/
def microStepFrame (s t : State) : Prop :=
  sameRegisters s t ∧ (s.ms ≠ .fetch → t.rdata = s.rdata) ∧
    ((t.result = s.result ∧ t.valid = s.valid) ∨ (t.ph = .idle ∧ t.valid = true))

theorem loadByte_microStepFrame {s t : State} (h : loadByte s = .next t) : microStepFrame s t := by
  obtain ⟨b, -, rfl⟩ := loadByte_cases h
  simp [microStepFrame, sameRegisters]

theorem issueWord_microStepFrame (b : Byte) (e : Bool) (s : State) : microStepFrame s (issueWord b e s) := by
  simp [microStepFrame, sameRegisters]

theorem poll_microStepFrame {s t : State} (h : poll s = .next t) : microStepFrame s t := by
  obtain ⟨hregs, hrdata, -, hres⟩ := poll_frame h
  exact ⟨hregs, fun _ => hrdata, hres⟩

theorem fetch_microStepFrame {s : State} (hm : s.ms = .fetch) : microStepFrame s (fetch s) := by
  obtain ⟨hregs, hres, hvalid, -⟩ := fetch_frame s
  exact ⟨hregs, fun hn => absurd hm hn, .inl ⟨hres, hvalid⟩⟩

/-- Every phase action but `ENABLE` keeps the frame of a micro-step. -/
theorem exec_action_microStepFrame {i : Instr} {s t : State} (hc : commandFields? i = none) (hi : i ≠ .enable)
    (h : exec i s = .next t) : microStepFrame s t := by
  rcases exec_action_cases hc h with ⟨rfl, -⟩ | ⟨-, -, hl⟩ | ⟨-, -, be, rfl⟩ | ⟨-, -, hp⟩ | ⟨-, hm, rfl⟩
  · exact absurd rfl hi
  · exact loadByte_microStepFrame hl
  · exact issueWord_microStepFrame be.1 be.2 s
  · exact poll_microStepFrame hp
  · exact fetch_microStepFrame hm

theorem exec_enable_next {s t : State} (h : exec .enable s = .next t) :
    t = finish .success { facWrite .ctrl enableWord s with en := true } := by
  rcases exec_action_cases rfl h with ⟨-, -, e⟩ | ⟨hi, -⟩ | ⟨hi, -⟩ | ⟨hi, -⟩ | ⟨hi, -⟩
  · exact e
  all_goals exact absurd rfl hi

/-- A command that answers a next state is accepted while idle. -/
theorem exec_command_next {i : Instr} {s t : State} {o : Opcode} {d : DevAddr} {r a : Byte}
    (hf : commandFields? i = some (o, d, r, a)) (h : exec i s = .next t) :
    s.ph = .idle ∧ t = acceptCommand o d r a s := by
  rw [exec_command hf] at h
  obtain ⟨hp, e⟩ | ⟨-, e⟩ := issueCommand_cases o d r a s <;> rw [e] at h
  · exact ⟨hp, by simpa using h.symm⟩
  · cases h

/-- Settles O50: `ENABLE` ends its command, any other action keeps the frame of a micro-step, a command is accepted. -/
theorem instructionsLeaveRegisters : Obligations.InstructionsLeaveRegisters := by
  unfold Obligations.InstructionsLeaveRegisters
  intro i s t h
  rcases hc : commandFields? i with _ | ⟨o, d, r, a⟩
  · by_cases hi : i = .enable
    · subst hi
      simp [exec_enable_next h]
    · obtain ⟨⟨hparams, hen, hdiv, hopc, hdev, hreg, harg, herr, hinputs, hhr⟩, hrdata, hres⟩ :=
        exec_action_microStepFrame hc hi h
      refine ⟨hparams, hinputs, hhr, hdiv, fun _ => ⟨hopc, hdev, hreg, harg, herr, fun _ => hen, fun h => absurd h hi,
        hrdata, fun hp => ?_⟩, by simp⟩
      exact hres.resolve_right fun hidle => hp hidle.1
  · obtain ⟨-, rfl⟩ := exec_command_next hc h
    simp

/-! ### The writer of each element (10_state.md R20 to R25, R31) -/

theorem Phase.ne_idle_of_isBus {p : Phase} (h : p.isBus = true) : p ≠ .idle := by
  rintro rfl; cases h

/-- What a turn of the sequencer may write of the elements that have one writer each: no parameter and nothing of the
latch; `EN`, `DIV` and `RESULT` only where their rules write them. -/
def sequencerWrites (s t : State) : Prop :=
  t.params = s.params ∧ (t.opc, t.dev, t.reg, t.arg) = (s.opc, s.dev, s.reg, s.arg) ∧
    (t.en ≠ s.en → t.en = true ∧ s.ph = .init ∧ s.ms = .issue) ∧
    (t.div ≠ s.div → t.div = s.arg ∧ s.ph = .init ∧ s.ms = .load) ∧
    (t.result ≠ s.result → s.ph ≠ .idle ∧ t.ph = .idle ∧ t.valid = true)

theorem sequencerWrites_of_microStepFrame {s t : State} (hf : microStepFrame s t) (hp : s.ph ≠ .idle) :
    sequencerWrites s t := by
  obtain ⟨⟨hparams, hen, hdiv, hopc, hdev, hreg, harg, -⟩, -, hres⟩ := hf
  refine ⟨hparams, by rw [hopc, hdev, hreg, harg], fun hn => absurd hen hn, fun hn => absurd hdiv hn, fun hn => ?_⟩
  exact ⟨hp, hres.resolve_left fun hsame => hn hsame.1⟩

theorem sequencerStep_writes {s t : State} (h : sequencerStep s = .next t) : sequencerWrites s t := by
  rcases sequencerStep_cases h with ⟨-, rfl⟩ | ⟨hp, hm, rfl⟩ | ⟨hp, hm, rfl⟩ | ⟨hp, -, hl⟩ | ⟨hp, -, rfl⟩ |
    ⟨hp, -, hl⟩ | ⟨hp, hm, rfl⟩
  · simp [sequencerWrites]
  · simp [sequencerWrites, hp, hm]
  · simp [sequencerWrites, hp, hm]
  · exact sequencerWrites_of_microStepFrame (loadByte_microStepFrame hl) (by rintro e; simp [e, Phase.isSend] at hp)
  · exact sequencerWrites_of_microStepFrame (issueWord_microStepFrame ..) (Phase.ne_idle_of_isBus hp)
  · exact sequencerWrites_of_microStepFrame (poll_microStepFrame hl) (Phase.ne_idle_of_isBus hp)
  · exact sequencerWrites_of_microStepFrame (fetch_microStepFrame hm) (by rintro e; simp [e, Phase.isReceive] at hp)

/-! ### The host map (10_state.md R36) -/

theorem hostReg_eq_cmd {a : HostIndex} (h : hostReg a = .cmd) : a = 0x000#10 := by
  unfold hostReg at h
  split at h
  · assumption
  · repeat' split at h
    all_goals cases h

/-- A host read changes the returned word, and counts a free value at most. -/
theorem hostRead_cases {a : HostIndex} {s t : State} (h : hostRead a s = .next t) :
    ∃ w n, t = { s with hrdata := w, freeNext := n } := by
  unfold hostRead at h
  cases hr : hostReg a <;> simp only [hr] at h
  case bufw i =>
    split at h
    · cases h
    · cases h; exact ⟨_, _, rfl⟩
  all_goals cases h; exact ⟨_, _, rfl⟩

/-- A host write anywhere but to `CMD` changes `BUF` at most. -/
theorem hostWrite_cases_of_ne_cmd {a : HostIndex} {w : Word} {s t : State} (ha : a ≠ 0x000#10)
    (h : hostWrite a w s = .next t) : ∃ m, t = { s with buf := m } := by
  unfold hostWrite at h
  cases hr : hostReg a <;> simp only [hr] at h
  case cmd => exact absurd (hostReg_eq_cmd hr) ha
  case bufw i =>
    split at h
    · cases h
    · cases h; exact ⟨_, rfl⟩
  all_goals cases h; exact ⟨_, rfl⟩

/-- No host access but a write of `CMD` changes the command latch. -/
theorem hostAccess_latch {a : HostAccess} {s t : State} (h : hostAccess a s = .next t)
    (hn : (t.opc, t.dev, t.reg, t.arg) ≠ (s.opc, s.dev, s.reg, s.arg)) :
    s.ph = .idle ∧ ∃ w, a = .write 0x000#10 w := by
  constructor
  · rcases hostAccess_cases h with ⟨w, n, rfl⟩ | ⟨i, v, hp, -⟩ | ⟨hp, -⟩ | ⟨i, o, d, r, x, -, hp, -⟩
    · exact absurd rfl hn
    all_goals exact hp
  · cases a with
    | read a =>
      obtain ⟨w, n, rfl⟩ := hostRead_cases h
      exact absurd rfl hn
    | write a w =>
      by_cases ha : a = 0x000#10
      · exact ⟨w, by rw [ha]⟩
      · obtain ⟨m, rfl⟩ := hostWrite_cases_of_ne_cmd ha h
        exact absurd rfl hn

/-- No host access writes a parameter, `EN`, `DIV` or `RESULT`. -/
theorem hostAccess_frame {a : HostAccess} {s t : State} (h : hostAccess a s = .next t) :
    t.params = s.params ∧ t.en = s.en ∧ t.div = s.div ∧ t.result = s.result := by
  rcases hostAccess_cases h with ⟨w, n, rfl⟩ | ⟨i, v, -, rfl⟩ | ⟨-, rfl⟩ | ⟨i, o, d, r, x, -, -, rfl⟩ <;> simp

/-- Settles O48: the sequencer writes `EN`, `DIV` and `RESULT`, the host the latch, a reset none of the parameters. -/
theorem eachElementHasItsWriter : Obligations.EachElementHasItsWriter := by
  unfold Obligations.EachElementHasItsWriter
  intro s t h
  rcases step_cases h with ⟨-, hs⟩ | ⟨l, -, hs⟩ | ⟨a, l, hin, hs⟩ | ⟨a, l, hin, rfl⟩
  · obtain ⟨hparams, hlatch, hen, hdiv, hres⟩ := sequencerStep_writes hs
    exact ⟨hparams, fun _ => ⟨hen, hdiv, fun hn => absurd hlatch hn, hres⟩⟩
  · obtain ⟨hparams, hlatch, hen, hdiv, hres⟩ := sequencerStep_writes hs
    exact ⟨hparams, fun _ => ⟨hen, hdiv, fun hn => absurd hlatch hn, hres⟩⟩
  · obtain ⟨hparams, hen, hdiv, hres⟩ := hostAccess_frame hs
    refine ⟨hparams, fun _ => ⟨fun hn => absurd hen hn, fun hn => absurd hdiv hn, fun hn => ?_,
      fun hn => absurd hres hn⟩⟩
    obtain ⟨hp, w, rfl⟩ := hostAccess_latch hs hn
    exact ⟨hp, w, l, hin⟩
  · exact ⟨rfl, fun hno => absurd hin (hno a l)⟩

/-! ### Unmapped and read-only indices, and the buffer window (10_state.md R42, R43) -/

/-- Every index below the buffer window but the first five, and every index above it, is unmapped. -/
theorem hostReg_unmapped {a : HostIndex} (h : (0x005 ≤ a.toNat ∧ a.toNat ≤ 0x0FF) ∨ 0x200 ≤ a.toNat) :
    hostReg a = .unmapped := by
  have hfew : a ≠ 0x000#10 ∧ a ≠ 0x001#10 ∧ a ≠ 0x002#10 ∧ a ≠ 0x003#10 ∧ a ≠ 0x004#10 := by
    refine ⟨?_, ?_, ?_, ?_, ?_⟩ <;> (rintro rfl; revert h; decide)
  have hwindow : a.extractLsb' 8 2 ≠ 1#2 := by
    intro he
    have he := congrArg BitVec.toNat he
    simp only [BitVec.extractLsb'_toNat, Nat.shiftRight_eq_div_pow, BitVec.toNat_ofNat] at he
    have := a.isLt
    omega
  simp [hostReg, hfew, hwindow]

/-- The buffer window is the 256 indices from 0x100. -/
theorem hostReg_bufw (i : Byte) : hostReg (0x100#10 + i.setWidth 10) = .bufw i := by
  have hi := i.isLt
  have hn : (0x100#10 + i.setWidth 10).toNat = 0x100 + i.toNat := by
    simp only [BitVec.toNat_add, BitVec.toNat_ofNat, BitVec.toNat_setWidth]; omega
  have hfew {k : HostIndex} (hk : k.toNat < 0x100) : 0x100#10 + i.setWidth 10 ≠ k := by
    rintro rfl; omega
  have hwindow : (0x100#10 + i.setWidth 10).extractLsb' 8 2 = 1#2 := by
    apply BitVec.eq_of_toNat_eq
    rw [BitVec.extractLsb'_toNat, hn, Nat.shiftRight_eq_div_pow]
    simp only [BitVec.toNat_ofNat]; omega
  have hlow : (0x100#10 + i.setWidth 10).extractLsb' 0 8 = i := by
    apply BitVec.eq_of_toNat_eq
    rw [BitVec.extractLsb'_toNat, hn, Nat.shiftRight_zero]
    omega
  unfold hostReg
  rw [if_neg (hfew (by decide)), if_neg (hfew (by decide)), if_neg (hfew (by decide)), if_neg (hfew (by decide)),
    if_neg (hfew (by decide)), if_pos hwindow, hlow]

/-- A write of a read-only register (10_state.md R38 to R41), or of an unmapped index (R43), changes nothing. -/
theorem hostWrite_dropped {a : HostIndex}
    (ha : hostReg a = .status ∨ hostReg a = .rdata ∨ hostReg a = .seq ∨ hostReg a = .divr ∨ hostReg a = .unmapped)
    (w : Word) (s : State) : hostAccess (.write a w) s = .next s := by
  rcases ha with h | h | h | h | h <;> simp [hostAccess, hostWrite, h]

/-- Settles O57: an unmapped index selects no register, and indices 1 to 4 the read-only ones. -/
theorem unmappedAndReadOnlyIndices : Obligations.UnmappedAndReadOnlyIndices := by
  unfold Obligations.UnmappedAndReadOnlyIndices
  intro s a w
  refine ⟨fun h => ⟨?read, ?write⟩, fun h => ?readOnly⟩
  case read => simp [hostAccess, hostRead, hostReg_unmapped h]
  case write => exact hostWrite_dropped (by simp [hostReg_unmapped h]) w s
  case readOnly =>
    have ha : a = 0x001#10 ∨ a = 0x002#10 ∨ a = 0x003#10 ∨ a = 0x004#10 := by bv_omega
    apply hostWrite_dropped
    rcases ha with rfl | rfl | rfl | rfl <;> decide

/-! ### The words of the read-only registers (10_state.md R38 to R41, 20_memory.md R76) -/

section
open BitVec (extractLsb'_append_eq_of_le extractLsb'_append_eq_right extractLsb'_append_eq_left)

theorem byteWord_low (b : Byte) : (byteWord b).extractLsb' 0 8 = b := by
  apply BitVec.eq_of_getLsbD_eq; intro i hi
  simp [byteWord, BitVec.getLsbD_setWidth, hi]; omega

theorem byteWord_high (b : Byte) : (byteWord b).extractLsb' 8 24 = 0 := by
  apply BitVec.eq_of_getLsbD_eq; intro i hi
  simp [byteWord, BitVec.getLsbD_setWidth]

theorem statusReg_result (s : State) : (statusReg s).extractLsb' 2 2 = s.result.code :=
  (extractLsb'_append_eq_of_le (by decide)).trans <|
    (extractLsb'_append_eq_of_le (by decide)).trans extractLsb'_append_eq_right

theorem statusReg_high (s : State) : (statusReg s).extractLsb' 7 25 = 0 :=
  (extractLsb'_append_eq_of_le (by decide)).trans <| (extractLsb'_append_eq_of_le (by decide)).trans <|
    (extractLsb'_append_eq_of_le (by decide)).trans <| (extractLsb'_append_eq_of_le (by decide)).trans <|
      (extractLsb'_append_eq_of_le (by decide)).trans extractLsb'_append_eq_left

theorem statusReg_flags (s : State) :
    (statusReg s).getLsbD 0 = busy s ∧ (statusReg s).getLsbD 1 = s.valid ∧ (statusReg s).getLsbD 4 = s.cmderr ∧
      (statusReg s).getLsbD 5 = s.own ∧ (statusReg s).getLsbD 6 = s.en := by
  simp only [statusReg, BitVec.getLsbD_append]
  simp

theorem seqReg_ph (s : State) : (seqReg s).extractLsb' 0 4 = s.ph.code := extractLsb'_append_eq_right

theorem seqReg_ms (s : State) : (seqReg s).extractLsb' 4 2 = s.ms.code :=
  (extractLsb'_append_eq_of_le (by decide)).trans extractLsb'_append_eq_right

theorem seqReg_gap (s : State) : (seqReg s).extractLsb' 6 2 = 0 :=
  (extractLsb'_append_eq_of_le (by decide)).trans <|
    (extractLsb'_append_eq_of_le (by decide)).trans extractLsb'_append_eq_right

theorem seqReg_idx (s : State) : (seqReg s).extractLsb' 8 8 = s.idx :=
  (extractLsb'_append_eq_of_le (by decide)).trans <| (extractLsb'_append_eq_of_le (by decide)).trans <|
    (extractLsb'_append_eq_of_le (by decide)).trans extractLsb'_append_eq_right

theorem seqReg_high (s : State) : (seqReg s).extractLsb' 16 16 = 0 :=
  (extractLsb'_append_eq_of_le (by decide)).trans <| (extractLsb'_append_eq_of_le (by decide)).trans <|
    (extractLsb'_append_eq_of_le (by decide)).trans extractLsb'_append_eq_left

end

/-- Settles O53: the word shown is `statusReg`, read bit by bit. -/
theorem statusShowsTheFlags : Obligations.StatusShowsTheFlags := by
  unfold Obligations.StatusShowsTheFlags
  refine ⟨fun s => ?_, rfl⟩
  obtain ⟨hbusy, hvalid, hcmderr, hown, hen⟩ := statusReg_flags s
  exact ⟨statusReg s, rfl, hbusy, hvalid, statusReg_result s, hcmderr, hown, hen, statusReg_high s,
    fun w => hostWrite_dropped (.inl rfl) w s⟩

/-- Settles O54: the word shown is `seqReg`, read field by field. -/
theorem seqShowsThePosition : Obligations.SeqShowsThePosition := by
  unfold Obligations.SeqShowsThePosition
  refine ⟨fun s => ?_, rfl⟩
  exact ⟨seqReg s, rfl, seqReg_ph s, seqReg_ms s, seqReg_gap s, seqReg_idx s, seqReg_high s,
    fun w => hostWrite_dropped (.inr (.inr (.inl rfl))) w s⟩

/-- Settles O55: both registers are a byte as a word. -/
theorem rdataAndDivrReadAsBytes : Obligations.RdataAndDivrReadAsBytes := by
  unfold Obligations.RdataAndDivrReadAsBytes
  intro s
  exact ⟨rdataReg s, divrReg s, rfl, byteWord_low _, byteWord_high _, rfl, byteWord_low _, byteWord_high _,
    fun w => ⟨hostWrite_dropped (.inr (.inl rfl)) w s, hostWrite_dropped (.inr (.inr (.inr (.inl rfl)))) w s⟩⟩

/-! ### The buffer (10_state.md R35, R42) -/

theorem hostRead_bufw (i : Byte) (s : State) :
    hostAccess (.read (0x100#10 + i.setWidth 10)) s =
      if busy s then .fault .hostReentry else .next (readBufw i s) := by
  simp only [hostAccess, hostRead, hostReg_bufw]

theorem hostWrite_bufw (i : Byte) (w : Word) (s : State) :
    hostAccess (.write (0x100#10 + i.setWidth 10) w) s =
      if busy s then .fault .hostReentry
      else .next { s with buf := Memory.write s.buf i.toNat (w.extractLsb' 0 8) } := by
  simp only [hostAccess, hostWrite, hostReg_bufw]

/-- A read of a cell that has a value shows it and counts no free value. -/
theorem readBufw_of_some {i b : Byte} {s : State} (h : Memory.read s.buf i.toNat = some b) :
    readBufw i s = { s with hrdata := byteWord b } := by
  simp [readBufw, bufwByte, h]

theorem busy_eq_false {s : State} (h : s.ph = .idle) : busy s = false := by simp [busy, h]

theorem busy_eq_true {s : State} (h : s.ph ≠ .idle) : busy s = true := by simp [busy, h]

/-- Settles O56: the window's index selects the cell, and `BUSY` decides between access and fault. -/
theorem bufferWindow : Obligations.BufferWindow := by
  unfold Obligations.BufferWindow
  intro s i w
  rw [hostRead_bufw, hostWrite_bufw]
  refine ⟨fun hp => ⟨⟨readBufw i s, ?read, fun b hb => ?value, byteWord_high _, rfl⟩, ?write⟩, fun hp => ?busy⟩
  case read => simp [busy_eq_false hp]
  case value =>
    rw [readBufw_of_some hb]
    exact ⟨rfl, byteWord_low b⟩
  case write =>
    rw [busy_eq_false hp]
    exact ⟨_, rfl, rfl, fun a => Memory.read_write ..⟩
  case busy => simp [busy_eq_true hp]

/-- In the data phase of `WRITE_BYTES` the byte to send is the cell's value, and a cell without one is the fault. -/
theorem sendByte_writeBytes {s : State} (hp : s.ph = .dataW) (ho : s.opc = .writeBytes) :
    sendByte s = (Memory.read s.buf s.idx.toNat).elim (.error .bufUninit) .ok := by
  unfold sendByte
  cases hr : Memory.read s.buf s.idx.toNat <;> simp [hp, ho]

theorem exec_send_load {s : State} (hs : s.ph.isSend = true) (hm : s.ms = .load) (e : Bool) :
    exec (.send e) s = loadByte s := by
  simp [exec, execSend, sendStep, hs, hm]

/-- Settles O21: `LOAD` faults as `sendbyte()` does, which reads the cell. -/
theorem unwrittenCellStopsTheLoad : Obligations.UnwrittenCellStopsTheLoad := by
  unfold Obligations.UnwrittenCellStopsTheLoad
  intro s e hp hm ho
  rw [exec_send_load (by rw [hp]; rfl) hm, loadByte, sendByte_writeBytes hp ho]
  cases Memory.read s.buf s.idx.toNat <;> simp

/-! ### `CMD` reads back (10_state.md R37, 30_encoding.md R111 to R114) -/

/-- A command word is its fields and the two must-be-zero fields in a row (R111). -/
theorem word_eq_append_fields (w : Word) :
    opcField w ++ w.extractLsb' 27 1 ++ devField w ++ regField w ++ w.extractLsb' 8 4 ++ argField w = w := by
  apply BitVec.eq_of_getLsbD_eq; intro i hi
  unfold opcField devField regField argField
  simp only [BitVec.getLsbD_append, BitVec.getLsbD_extractLsb']
  interval_cases i <;> simp

/-- Where the mask has all ones, the word has the match's bits. -/
theorem extractLsb'_of_matches {w mask pattern : Word} (h : matches32 w mask pattern = true) (start len : Nat)
    (hm : mask.extractLsb' start len = BitVec.allOnes len) :
    w.extractLsb' start len = pattern.extractLsb' start len := by
  have hand : w &&& mask = pattern := by simpa [matches32] using h
  rw [← hand, BitVec.extractLsb'_and, hm, BitVec.and_allOnes]

/-- The five rows of R114. -/
theorem decodeCommand_cases {w : Word} {i : Instr} (h : decodeCommand w = .ok i) :
    (matches32 w 0xFFFFFF00#32 0x10000000#32 = true ∧ i = .init (argField w)) ∨
    (matches32 w 0xF8000F00#32 0x20000000#32 = true ∧ i = .writeByte (devField w) (regField w) (argField w)) ∨
    (matches32 w 0xF8000F00#32 0x30000000#32 = true ∧ i = .writeBytes (devField w) (regField w) (argField w)) ∨
    (matches32 w 0xF8000FFF#32 0x40000000#32 = true ∧ i = .readByte (devField w) (regField w)) ∨
    (matches32 w 0xF8000F00#32 0x50000000#32 = true ∧ i = .readBytes (devField w) (regField w) (argField w)) := by
  unfold decodeCommand at h
  repeat' split at h
  all_goals simp_all

/-- The row's mask covers the opcode and the must-be-zero fields, so the match fixes them. -/
theorem commandWord_of_row {w mask pattern : Word} {o : BitVec 4} {d : DevAddr} {r a : Byte}
    (h : matches32 w mask pattern = true)
    (hopc : mask.extractLsb' 28 4 = BitVec.allOnes 4 ∧ pattern.extractLsb' 28 4 = o)
    (hz1 : mask.extractLsb' 27 1 = BitVec.allOnes 1 ∧ pattern.extractLsb' 27 1 = 0#1)
    (hz2 : mask.extractLsb' 8 4 = BitVec.allOnes 4 ∧ pattern.extractLsb' 8 4 = 0#4)
    (hd : devField w = d) (hr : regField w = r) (ha : argField w = a) :
    commandWord o d r a = w := by
  have fixed := extractLsb'_of_matches h
  have ho : opcField w = o := (fixed 28 4 hopc.1).trans hopc.2
  have h1 : w.extractLsb' 27 1 = 0#1 := (fixed 27 1 hz1.1).trans hz1.2
  have h2 : w.extractLsb' 8 4 = 0#4 := (fixed 8 4 hz2.1).trans hz2.2
  rw [commandWord, ← ho, ← h1, ← h2, ← hd, ← hr, ← ha]
  exact word_eq_append_fields w

/-- A word that decodes to a command is the word of that command's fields. -/
theorem commandWord_of_decodeCommand {w : Word} {i : Instr} {o : Opcode} {d : DevAddr} {r a : Byte}
    (hd : decodeCommand w = .ok i) (hf : commandFields? i = some (o, d, r, a)) : commandWord o.code d r a = w := by
  rcases decodeCommand_cases hd with ⟨h, rfl⟩ | ⟨h, rfl⟩ | ⟨h, rfl⟩ | ⟨h, rfl⟩ | ⟨h, rfl⟩ <;> cases hf
  · have hdev : devField w = 0 := extractLsb'_of_matches h 20 7 rfl
    have hreg : regField w = 0 := extractLsb'_of_matches h 12 8 rfl
    exact commandWord_of_row h ⟨rfl, rfl⟩ ⟨rfl, rfl⟩ ⟨rfl, rfl⟩ hdev hreg rfl
  · exact commandWord_of_row h ⟨rfl, rfl⟩ ⟨rfl, rfl⟩ ⟨rfl, rfl⟩ rfl rfl rfl
  · exact commandWord_of_row h ⟨rfl, rfl⟩ ⟨rfl, rfl⟩ ⟨rfl, rfl⟩ rfl rfl rfl
  · have harg : argField w = 0 := extractLsb'_of_matches h 0 8 rfl
    exact commandWord_of_row h ⟨rfl, rfl⟩ ⟨rfl, rfl⟩ ⟨rfl, rfl⟩ rfl rfl harg
  · exact commandWord_of_row h ⟨rfl, rfl⟩ ⟨rfl, rfl⟩ ⟨rfl, rfl⟩ rfl rfl rfl

theorem cmdReg_acceptCommand (o : Opcode) (d : DevAddr) (r a : Byte) (s : State) :
    cmdReg (acceptCommand o d r a s) = commandWord o.code d r a := rfl

theorem hostAccess_writeCmd {s : State} {w : Word} {i : Instr} (hp : s.ph = .idle) (hd : decodeCommand w = .ok i) :
    hostAccess (.write 0x000#10 w) s = exec i s := by
  have hr : hostReg 0x000#10 = .cmd := rfl
  simp only [hostAccess, hostWrite, hr, writeCmd, busy_eq_false hp, hd, Bool.false_eq_true, if_false]

/-- Settles O14: acceptance latches the word's fields, and the word is its fields. -/
theorem cmdReadsBackTheAcceptedWord : Obligations.CmdReadsBackTheAcceptedWord := by
  unfold Obligations.CmdReadsBackTheAcceptedWord
  refine fun s => ⟨rfl, ?accepted, rfl⟩
  rintro w t hp ⟨i, hd⟩ h
  obtain ⟨⟨o, d, r, a⟩, hf⟩ := decodeCommand_fields hd
  rw [hostAccess_writeCmd hp hd] at h
  obtain ⟨-, rfl⟩ := exec_command_next hf h
  rw [cmdReg_acceptCommand, commandWord_of_decodeCommand hd hf]

end Sys2Proof.Machine

namespace Sys2Proof.Machine

/-! ### The accesses of one step (20_memory.md R73) -/

/-- A turn of the sequencer outside `IDLE` makes the one access of its micro-step. -/
theorem sequencerStep_access {s t : State} (h : sequencerStep s = .next t) (hp : s.ph ≠ .idle) :
    (∃ b, s.ms = .load ∧ s.ph.isSend = true ∧ t.history = .write .data b :: s.history) ∨
    (∃ w, s.ms = .issue ∧ t.history = .write .ctrl w :: s.history) ∨
    (∃ v, s.ms = .poll ∧ s.ph.isBus = true ∧ t.history = .read .stat v :: s.history) ∨
    (∃ v, s.ms = .fetch ∧ s.ph.isReceive = true ∧ t.history = .read .data v :: s.history) ∨
    (s.ms = .load ∧ s.ph = .init ∧ t.history = .write .baud s.arg :: s.history) := by
  rcases sequencerStep_history h with ⟨hi, -⟩ | ⟨hi, hm, e⟩ | ⟨-, hm, e⟩ | ⟨b, hs, hm, e⟩ | ⟨-, hm, e⟩ | ⟨hb, hm, e⟩ |
    ⟨hr, hm, e⟩
  · exact absurd hi hp
  · exact .inr (.inr (.inr (.inr ⟨hm, hi, e⟩)))
  · exact .inr (.inl ⟨_, hm, e⟩)
  · exact .inl ⟨b, hm, hs, e⟩
  · exact .inr (.inl ⟨_, hm, e⟩)
  · exact .inr (.inr (.inl ⟨_, hm, hb, e⟩))
  · exact .inr (.inr (.inr (.inl ⟨_, hm, hr, e⟩)))

theorem sequencerStep_idle_history {s t : State} (h : sequencerStep s = .next t) (hp : s.ph = .idle) :
    t.history = s.history := by
  rw [sequencerStep_idle hp] at h
  cases h; rfl

/-- Settles O45: the access is the micro-step's when the turn is the sequencer's, and no other agent makes one. -/
theorem facadeAccessesAreExactlyThese : Obligations.FacadeAccessesAreExactlyThese := by
  unfold Obligations.FacadeAccessesAreExactlyThese
  intro s t h
  rcases step_cases h with ⟨hin, hs⟩ | ⟨l, hin, hs⟩ | ⟨a, l, hin, hs⟩ | ⟨a, l, hin, rfl⟩
  · exact ⟨fun hn => sequencerStep_idle_history hs (by simpa [hin] using hn), fun hp _ => sequencerStep_access hs hp⟩
  · exact ⟨fun hn => (sequencerStep_idle_history hs (by simpa [hin] using hn) :),
      fun hp _ => (sequencerStep_access hs hp :)⟩
  · exact ⟨fun _ => (hostAccess_history hs :), fun _ hn => by simp [hin] at hn⟩
  · exact ⟨fun _ => rfl, fun _ hn => by simp [hin] at hn⟩

/-! ### The bus is held until the stop (20_memory.md R86) -/

/-- `STO` is set in the word of the two phases that issue a stop, and in no other. -/
theorem Phase.stop_of_word_sto {p : Phase} {e : Bool} (h : (controlWord p.word e).getLsbD 2 = true) :
    p = .stop ∨ p = .aborted := by
  revert h; cases p <;> cases e <;> decide

/-- A turn of the sequencer that writes a word with `STO` = 1 is one of a phase that issues a stop. -/
theorem sequencerStep_stop_of_sto {s t : State} {w : Byte} (h : sequencerStep s = .next t)
    (hw : t.history = .write .ctrl w :: s.history) (hsto : w.getLsbD 2 = true) : s.ph = .stop ∨ s.ph = .aborted := by
  rcases sequencerStep_history h with ⟨-, rfl⟩ | ⟨-, -, e⟩ | ⟨-, -, e⟩ | ⟨b, -, -, e⟩ | ⟨-, -, e⟩ | ⟨-, -, e⟩ |
    ⟨-, -, e⟩
  · simp at hw
  all_goals
    rw [e] at hw
    injection hw with hw _
    cases hw
  -- what is left are the two turns that write `CTRL`: `ENABLE`, and the `ISSUE` of a bus phase
  · exact absurd hsto (by decide)
  · exact Phase.stop_of_word_sto hsto

theorem phaseDone_own {s t : State} (h : phaseDone s = .next t) : t.own = s.own ∨ t.ph = .idle := by
  rcases phaseDone_cases h with ⟨_, rfl⟩ | ⟨_, rfl⟩ | ⟨_, _, rfl⟩ | ⟨_, _, _, rfl⟩ | ⟨_, _, _, rfl⟩ | ⟨_, _, rfl⟩ |
    ⟨_, _, _, rfl⟩ | ⟨_, _, _, rfl⟩ | ⟨_, _, rfl⟩ | ⟨_, _, _, rfl⟩ | ⟨_, _, _, rfl⟩ | ⟨_, _, rfl⟩ | ⟨_, _, rfl⟩ |
    ⟨_, _, _, rfl⟩ | ⟨_, _, _, rfl⟩ | ⟨_, _, _, rfl⟩ | ⟨_, rfl⟩ | ⟨_, rfl⟩ <;> simp

theorem pollNotDone_own (s : State) : (pollNotDone s).own = s.own ∨ (pollNotDone s).ph = .idle := by
  rcases pollNotDone_cases s with ⟨-, e⟩ | ⟨-, -, e⟩ | ⟨-, -, e⟩ <;> simp [e]

theorem poll_own {s t : State} (h : poll s = .next t) : t.own = s.own ∨ t.ph = .idle := by
  rcases poll_cases h with ⟨-, -, rfl⟩ | ⟨-, -, hd⟩ | ⟨-, rfl⟩
  · exact .inl rfl
  · exact (phaseDone_own hd :)
  · exact pollNotDone_own (facRead .stat s)

@[simp] theorem storeReceived_own (d : Byte) (s : State) : (storeReceived d s).own = s.own := by
  unfold storeReceived; split <;> rfl

/-- The sequencer gives the bus up only where a command ends. -/
theorem sequencerStep_own {s t : State} (h : sequencerStep s = .next t) (ho : s.own = true) :
    t.own = true ∨ t.ph = .idle := by
  rcases sequencerStep_cases h with ⟨-, rfl⟩ | ⟨-, -, rfl⟩ | ⟨-, -, rfl⟩ | ⟨-, -, hl⟩ | ⟨-, -, rfl⟩ | ⟨-, -, hl⟩ |
    ⟨-, -, rfl⟩
  · exact .inl ho
  · exact .inl ho
  · exact .inr rfl
  · obtain ⟨b, -, rfl⟩ := loadByte_cases hl
    exact .inl ho
  · simp [ho]
  · exact ho ▸ poll_own hl
  · simp [fetch, ho]

/-- No host access changes `OWN`. -/
theorem hostAccess_own {a : HostAccess} {s t : State} (h : hostAccess a s = .next t) : t.own = s.own := by
  rcases hostAccess_cases h with ⟨w, n, rfl⟩ | ⟨i, v, -, rfl⟩ | ⟨-, rfl⟩ | ⟨i, o, d, r, x, -, -, rfl⟩ <;> rfl

theorem sequencerStep_holds_bus {s t : State} (h : sequencerStep s = .next t) :
    (∀ w, t.history = .write .ctrl w :: s.history → w.getLsbD 2 = true → s.ph = .stop ∨ s.ph = .aborted) ∧
    (s.own = true → t.own = false → t.ph = .idle) :=
  ⟨fun _ => sequencerStep_stop_of_sto h,
    fun ho hn => (sequencerStep_own h ho).resolve_left (by simp [hn])⟩

/-- Settles O44: the sequencer stops the bus in its two stop phases and gives it up at the end of a command; a host
access does neither, and a reset cycle ends in `IDLE`. -/
theorem busIsHeldUntilStop : Obligations.BusIsHeldUntilStop := by
  unfold Obligations.BusIsHeldUntilStop
  intro s t _ h
  rcases step_cases h with ⟨-, hs⟩ | ⟨l, -, hs⟩ | ⟨a, l, -, hs⟩ | ⟨a, l, -, rfl⟩
  · exact sequencerStep_holds_bus hs
  · exact (sequencerStep_holds_bus hs :)
  · have hown : t.own = s.own := (hostAccess_own hs :)
    have hhist : t.history = s.history := (hostAccess_history hs :)
    exact ⟨fun w hw => by simp [hhist] at hw, fun ho hn => by simp [hown, ho] at hn⟩
  · exact ⟨fun w hw => by simp at hw, fun _ _ => rfl⟩

/-! ### The premise platform's control words (20_memory.md R91, R92, R95; 40_init.md R145) -/

/-- Turning the controller off under a phase in flight leaves the phase unspecified. -/
theorem Platform.control_off_in_flight (p : Platform) {w v b : Byte} (hg : goFlag w = false) (he : enFlag w = false)
    (hl : p.launch = .inFlight v b) : (p.control w).launch = .unspecified := by
  simp [Platform.control, Platform.noGo, hg, he, hl]

@[simp] theorem Platform.cutShort_enabled (p : Platform) : p.cutShort.enabled = p.enabled := by
  unfold Platform.cutShort; split <;> rfl

@[simp] theorem Platform.go_enabled (p : Platform) (w : Byte) : (p.go w).enabled = p.enabled := by
  unfold Platform.go
  split
  · exact p.cutShort_enabled
  · rfl

@[simp] theorem Platform.noGo_enabled (p : Platform) : p.noGo.enabled = p.enabled := by
  unfold Platform.noGo
  split
  · split <;> rfl
  all_goals rfl

/-- Every `CTRL` word turns the controller on or off by its `EN` bit, whatever it does to a phase. -/
theorem Platform.control_enabled (p : Platform) (w : Byte) : (p.control w).enabled = enFlag w := by
  unfold Platform.control
  cases goFlag w <;> simp

/-- A poll completes the phase in flight exactly when it shows `DONE` (R92). -/
theorem Platform.after_poll_launch {p : Platform} {w b : Byte} (h : p.launch = .inFlight w b) (v : Byte) :
    (p.after (.read .stat v)).launch = if doneFlag v then .completed else .inFlight w b := by
  simp only [Platform.after, h]
  split
  · rfl
  · exact h

/-- From the completion of a phase a `STAT` read owes `DONE` (R92). -/
theorem Platform.allows_poll_of_completed {p : Platform} (h : p.launch = .completed) (v : Byte) :
    p.allows (.read .stat v) = doneFlag v := by
  simp [Platform.allows, h]

/-- Of an unspecified phase every run of answers is allowed, until a `GO` word with `EN` = 1. -/
theorem Platform.conforms_of_unspecified {p : Platform} (hp : p.launch = .unspecified) {h : List FacAccess}
    (hb : h.all (fun a => !a.begins) = true) : p.conforms h = true := by
  induction h generalizing p with
  | nil => rfl
  | cons a h ih =>
    simp only [List.all_cons, Bool.and_eq_true, Bool.not_eq_true'] at hb
    simp [Platform.conforms, Platform.allows_unspecified p a hp, ih (p.after_stays_unspecified a hp hb.1) hb.2]

/-- Settles O58: the word's `GO` and `EN` bits choose the branch of `Platform.control`, whose launch decides what is
owed. -/
theorem controllerMustBeOn : Obligations.ControllerMustBeOn := by
  unfold Obligations.ControllerMustBeOn
  intro p w
  refine ⟨fun hg => ⟨p.control_enabled w, p.control_noGo w hg, ?off⟩, fun hg he => ?begun,
    Platform.allows_poll_of_completed, fun hg he h hb => ?free⟩
  case off =>
    rintro he ⟨v, b, hl⟩
    exact p.control_off_in_flight hg he hl
  case begun =>
    have hl : (p.control w).launch = .inFlight w p.toSend := (p.control_go_launch w hg).trans (if_pos he)
    exact ⟨hl, Platform.after_poll_launch hl⟩
  case free =>
    have hl : (p.control w).launch = .unspecified := by
      rw [p.control_go_launch w hg, if_neg (by rw [enFlag, he]; decide)]
    simp only [Platform.conforms, p.allows_write .ctrl w, Bool.true_and]
    exact Platform.conforms_of_unspecified hl hb

end Sys2Proof.Machine

namespace Sys2Proof.Machine

/-! ### The two one-byte transactions on a prompt facade (42_transactions.md R196, R198, R210) -/

theorem stepN_trans {m n : Nat} {s t u : State} (h₁ : stepN m s = .next t) (h₂ : stepN n t = .next u) :
    stepN (m + n) s = .next u :=
  (stepN_add h₁).trans h₂

/-- A command is accepted while idle. -/
theorem exec_command_of_idle {i : Instr} {o : Opcode} {d : DevAddr} {r a : Byte}
    (hf : commandFields? i = some (o, d, r, a)) {s : State} (hp : s.ph = .idle) :
    exec i s = .next (acceptCommand o d r a s) := by
  rw [exec_command hf, issueCommand, busy_eq_false hp]; rfl

/-- The five phases of `WRITE_BYTE`, newest access first; `p₁` to `p₅` are the polls (R196). -/
def writeByteTrace (e : Bool) (dev : DevAddr) (reg data p₁ p₂ p₃ p₄ p₅ : Byte) : List FacAccess :=
  conditionTrace (controlWord stopBits e) p₅ ++ sendTrace data (controlWord sendBits e) p₄ ++
    sendTrace reg (controlWord sendBits e) p₃ ++ sendTrace (addressByte dev false) (controlWord sendBits e) p₂ ++
    conditionTrace (controlWord startBits e) p₁

/-- The phases of `READ_BYTE` up to the poll that ends the receive phase, newest access first (R198). -/
def readByteTraceToReceive (e : Bool) (dev : DevAddr) (reg p₁ p₂ p₃ p₄ p₅ p₆ : Byte) : List FacAccess :=
  conditionTrace (controlWord recvNackBits e) p₆ ++
    sendTrace (addressByte dev true) (controlWord sendBits e) p₅ ++ conditionTrace (controlWord startBits e) p₄ ++
    sendTrace reg (controlWord sendBits e) p₃ ++ sendTrace (addressByte dev false) (controlWord sendBits e) p₂ ++
    conditionTrace (controlWord startBits e) p₁

/-- The seven phases of `READ_BYTE`, newest access first: the byte received, `d`, is fetched, and the stop follows. -/
def readByteTrace (e : Bool) (dev : DevAddr) (reg d p₁ p₂ p₃ p₄ p₅ p₆ p₇ : Byte) : List FacAccess :=
  conditionTrace (controlWord stopBits e) p₇ ++
    .read .data d :: readByteTraceToReceive e dev reg p₁ p₂ p₃ p₄ p₅ p₆

/-- A transaction at the first micro-step of its phase `p`, on a prompt facade: of the state `s` in which its command
was accepted, the accesses `h` have been made, `j` data phases have completed, and the answers `l` are to come. -/
def midTransaction (s : State) (p : Phase) (j : Byte) (f : Facade) (h : List FacAccess) (l : List Byte) : State :=
  { s with
    ph := p, ms := firstMicroStep p, idx := j, tcnt := s.params.tmo, own := true, facade := f,
    history := h ++ s.history, answers := l }

section
variable {s : State} {p q : Phase} {j j' b v : Byte} {f : Facade} {h : List FacAccess} {l : List Byte}

/-- `START` of an accepted transaction command. -/
theorem stepN_start {o : Opcode} {d : DevAddr} {r a : Byte} (ho : o ≠ .init) (hi : s.inputs = [])
    (ha : s.answers = v :: l) (hd : doneFlag v = true) :
    stepN 2 (acceptCommand o d r a s) = .next (midTransaction (acceptCommand o d r a s) .addrW 0
      { s.facade with ctrl := controlWord startBits s.en, stat := v }
      (conditionTrace (controlWord startBits s.en) v) l) := by
  cases o
  case init => exact absurd rfl ho
  all_goals exact stepN_condition rfl rfl hi ha hd rfl

/-- A send phase inside a transaction. -/
theorem stepN_midTransaction_send (hk : p.isSend = true) (hi : s.inputs = []) (hd : doneFlag v = true)
    (hb : sendByte (midTransaction s p j f h (v :: l)) = .ok b)
    (hn : phaseDone (sentState (midTransaction s p j f h (v :: l)) b v l) =
      .next (enter q { sentState (midTransaction s p j f h (v :: l)) b v l with idx := j' })) :
    stepN 3 (midTransaction s p j f h (v :: l)) = .next (midTransaction s q j'
      { f with ctrl := controlWord p.word s.en, stat := v, data := b }
      (sendTrace b (controlWord p.word s.en) v ++ h) l) := by
  have hm : firstMicroStep p = .load := firstMicroStep_send hk
  rw [stepN_send (s := midTransaction s p j f h (v :: l)) hk hm hi rfl hd hb hn]
  simp [midTransaction, sentState, enter]

end

/-- The five phases of `WRITE_BYTE` take 13 micro-steps. -/
theorem stepN_writeByte {s : State} {dev : DevAddr} {reg data p₁ p₂ p₃ p₄ p₅ : Byte} {rest : List Byte}
    (hi : s.inputs = []) (ha : s.answers = [p₁, p₂, p₃, p₄, p₅] ++ rest) (hd : allDone [p₁, p₂, p₃, p₄, p₅]) :
    stepN 13 (acceptCommand .writeByte dev reg data s) = .next { s with
      opc := .writeByte, dev := dev, reg := reg, arg := data, ms := .load, idx := 1, tcnt := s.params.tmo, ph := .idle
      own := false, result := .success, valid := true, cmderr := false, answers := rest
      facade := { ctrl := controlWord stopBits s.en, stat := p₅, data := data, baud := s.facade.baud }
      history := writeByteTrace s.en dev reg data p₁ p₂ p₃ p₄ p₅ ++ s.history } := by
  simp only [allDone, List.forall_mem_cons] at hd
  obtain ⟨hd₁, hd₂, hd₃, hd₄, hd₅, -⟩ := hd
  have addrW := stepN_start (o := .writeByte) (d := dev) (r := reg) (a := data) nofun hi ha hd₁
  have regAddr := stepN_trans addrW (stepN_midTransaction_send (q := .regAddr) (j' := 0) rfl hi hd₂ rfl rfl)
  have dataW := stepN_trans regAddr (stepN_midTransaction_send (q := .dataW) (j' := 0) rfl hi hd₃ rfl rfl)
  have stop := stepN_trans dataW (stepN_midTransaction_send (q := .stop) (j' := 1) rfl hi hd₄ rfl rfl)
  exact stepN_trans stop (stepN_condition rfl rfl hi rfl hd₅ rfl)

/-- The seven phases of `READ_BYTE` take 18 micro-steps. -/
theorem stepN_readByte {s : State} {dev : DevAddr} {reg d p₁ p₂ p₃ p₄ p₅ p₆ p₇ : Byte} {rest : List Byte}
    (hi : s.inputs = []) (ha : s.answers = [p₁, p₂, p₃, p₄, p₅, p₆, d, p₇] ++ rest)
    (hd : allDone [p₁, p₂, p₃, p₄, p₅, p₆, p₇]) :
    stepN 18 (acceptCommand .readByte dev reg 0 s) = .next { s with
      opc := .readByte, dev := dev, reg := reg, arg := 0, ms := .load, idx := 1, tcnt := s.params.tmo, ph := .idle
      own := false, result := .success, valid := true, cmderr := false, rdata := d, answers := rest
      facade := { ctrl := controlWord stopBits s.en, stat := p₇, data := d, baud := s.facade.baud }
      history := readByteTrace s.en dev reg d p₁ p₂ p₃ p₄ p₅ p₆ p₇ ++ s.history } := by
  simp only [allDone, List.forall_mem_cons] at hd
  obtain ⟨hd₁, hd₂, hd₃, hd₄, hd₅, hd₆, hd₇, -⟩ := hd
  have addrW := stepN_start (o := .readByte) (d := dev) (r := reg) (a := 0) nofun hi ha hd₁
  have regAddr := stepN_trans addrW (stepN_midTransaction_send (q := .regAddr) (j' := 0) rfl hi hd₂ rfl rfl)
  have rstart := stepN_trans regAddr (stepN_midTransaction_send (q := .rstart) (j' := 0) rfl hi hd₃ rfl rfl)
  have addrR := stepN_trans rstart (stepN_condition rfl rfl hi rfl hd₄ rfl)
  have dataRNack := stepN_trans addrR (stepN_send rfl rfl hi rfl hd₅ rfl rfl)
  have stop := stepN_trans dataRNack (stepN_receive rfl rfl hi rfl hd₆)
  exact stepN_trans stop (stepN_condition rfl rfl hi rfl hd₇ rfl)

/-! ### What the phases do to the premise platform (20_memory.md R91 to R97) -/

theorem Platform.afterAll_append (p : Platform) (h₁ h₂ : List FacAccess) :
    p.afterAll (h₁ ++ h₂) = (p.afterAll h₁).afterAll h₂ :=
  List.foldl_append

theorem Platform.conforms_append (p : Platform) (h₁ h₂ : List FacAccess) :
    p.conforms (h₁ ++ h₂) = (p.conforms h₁ && (p.afterAll h₁).conforms h₂) := by
  induction h₁ generalizing p with
  | nil => rfl
  | cons a h₁ ih => simp [Platform.conforms, ih, Platform.afterAll, Bool.and_assoc]

/-- In a run that keeps the contract every access is allowed where it is made. -/
theorem Platform.allows_of_conforms {p : Platform} {h₁ h₂ : List FacAccess} {a : FacAccess}
    (h : p.conforms (h₁ ++ a :: h₂) = true) : (p.afterAll h₁).allows a = true := by
  rw [Platform.conforms_append, Platform.conforms] at h
  simp only [Bool.and_eq_true] at h
  obtain ⟨-, ha, -⟩ := h
  exact ha

/-- A platform that is on and whose last phase has completed: the peripheral at `a` has the registers `r` and the
pointer `k` and stands at `m`; `x` is in `DATA` to be sent, and `d` is the byte received. -/
def Platform.settled (a : DevAddr) (r : Byte → Option Byte) (k : Option Byte) (m : BusMode) (x : Byte)
    (d : Option Byte) : Platform :=
  { address := a, regs := r, pointer := k, mode := m, enabled := true, toSend := x, launch := .completed,
    received := d }

/-- The prompt phase of a `GO` word with `EN` = 1: what it cuts short is forgotten, and it completes at its poll. -/
theorem Platform.afterAll_phase (p : Platform) {w v : Byte} (hg : goFlag w = true) (he : enFlag w = true)
    (hd : doneFlag v = true) :
    p.afterAll [.write .ctrl w, .read .stat v] =
      { Platform.complete { p.cutShort with enabled := true, launch := .inFlight w p.toSend, received := none } w
          p.toSend with
        launch := .completed } := by
  rcases p with ⟨_, _, _, _, _, _, l, _⟩
  cases l <;> simp [Platform.afterAll, Platform.after, Platform.control, Platform.go, Platform.cutShort,
    Platform.forget, hg, he, hd]

section
variable {a : DevAddr} {r : Byte → Option Byte} {k d : Option Byte} {m : BusMode} {x b v : Byte}

/-- A start word addresses anew, whatever came before; what a phase it cuts short has done is not known. -/
theorem Platform.afterAll_first_start (p : Platform) (hd : doneFlag v = true) :
    ∃ r k, p.afterAll (conditionTrace (controlWord startBits true) v).reverse =
      .settled p.address r k .addressing p.toSend none := by
  refine ⟨p.cutShort.regs, p.cutShort.pointer, (p.afterAll_phase rfl rfl hd).trans ?_⟩
  rcases p with ⟨_, _, _, _, _, _, l, _⟩
  cases l <;> rfl

theorem Platform.afterAll_start_of_settled (hd : doneFlag v = true) :
    (settled a r k m x d).afterAll (conditionTrace (controlWord startBits true) v).reverse =
      settled a r k .addressing x none :=
  Platform.afterAll_phase (settled a r k m x d) rfl rfl hd

theorem Platform.afterAll_stop_of_settled (hd : doneFlag v = true) :
    (settled a r k m x d).afterAll (conditionTrace (controlWord stopBits true) v).reverse =
      settled a r k .released x none :=
  Platform.afterAll_phase (settled a r k m x d) rfl rfl hd

/-- In a send phase the peripheral takes the byte from `DATA`. -/
theorem Platform.afterAll_send_of_settled (hd : doneFlag v = true) :
    (settled a r k m x d).afterAll (sendTrace b (controlWord sendBits true) v).reverse =
      (settled a r k m b none).takeByte b := by
  refine (Platform.afterAll_phase (settled a r k m b none) rfl rfl hd).trans ?_
  cases m <;> rfl

/-- In a receive phase the peripheral supplies the byte. -/
theorem Platform.afterAll_receive_of_settled (hd : doneFlag v = true) :
    (settled a r k m x d).afterAll (conditionTrace (controlWord recvNackBits true) v).reverse =
      (settled a r k m x none).supplyByte := by
  refine (Platform.afterAll_phase (settled a r k m x d) rfl rfl hd).trans ?_
  cases m <;> rfl

theorem addressByte_read_ne_write (a : DevAddr) : addressByte a true ≠ addressByte a false := by
  intro h
  have hbit := congrArg (·.getLsbD 0) h
  simp only [addressByte, BitVec.getLsbD_append] at hbit
  simp at hbit

theorem Platform.takeByte_writeAddress :
    (settled a r k .addressing x d).takeByte (addressByte a false) = settled a r k .pointer x d := by
  simp [takeByte, settled]

theorem Platform.takeByte_readAddress :
    (settled a r k .addressing x d).takeByte (addressByte a true) = settled a r k .supplying x d := by
  simp [takeByte, settled, addressByte_read_ne_write]

theorem Platform.takeByte_pointer : (settled a r k .pointer x d).takeByte b = settled a r (some b) .storing x d := rfl

theorem Platform.takeByte_storing {i : Byte} :
    (settled a r (some i) .storing x d).takeByte b =
      settled a (fun j => if j = i then some b else r j) (some (i + 1)) .storing x d := rfl

theorem Platform.supplyByte_supplying {i : Byte} :
    (settled a r (some i) .supplying x d).supplyByte = settled a r (some (i + 1)) .supplying x (r i) := rfl

end

/-- After a `WRITE_BYTE` that succeeded the peripheral's register holds the byte. -/
theorem Platform.afterAll_writeByteTrace (p : Platform) (reg b : Byte) {p₁ p₂ p₃ p₄ p₅ : Byte}
    (hd : allDone [p₁, p₂, p₃, p₄, p₅]) :
    ∃ r k m x, r reg = some b ∧
      p.afterAll (writeByteTrace true p.address reg b p₁ p₂ p₃ p₄ p₅).reverse = settled p.address r k m x none := by
  simp only [allDone, List.forall_mem_cons] at hd
  obtain ⟨hd₁, hd₂, hd₃, hd₄, hd₅, -⟩ := hd
  obtain ⟨r, k, hstart⟩ := p.afterAll_first_start hd₁
  refine ⟨fun j => if j = reg then some b else r j, some (reg + 1), .released, b, if_pos rfl, ?_⟩
  simp only [writeByteTrace, List.reverse_append, Platform.afterAll_append, hstart, afterAll_send_of_settled, hd₂, hd₃,
    hd₄, hd₅, takeByte_writeAddress, takeByte_pointer, takeByte_storing, afterAll_stop_of_settled]

/-- The receive phase of a `READ_BYTE` leaves in `DATA` what the peripheral's register holds. -/
theorem Platform.afterAll_readByteTraceToReceive {a : DevAddr} {r : Byte → Option Byte} {k d : Option Byte}
    {m : BusMode} {x : Byte} (reg : Byte) {p₁ p₂ p₃ p₄ p₅ p₆ : Byte} (hd : allDone [p₁, p₂, p₃, p₄, p₅, p₆]) :
    (settled a r k m x d).afterAll (readByteTraceToReceive true a reg p₁ p₂ p₃ p₄ p₅ p₆).reverse =
      settled a r (some (reg + 1)) .supplying (addressByte a true) (r reg) := by
  simp only [allDone, List.forall_mem_cons] at hd
  obtain ⟨hd₁, hd₂, hd₃, hd₄, hd₅, hd₆, -⟩ := hd
  simp only [readByteTraceToReceive, List.reverse_append, Platform.afterAll_append, afterAll_start_of_settled,
    afterAll_send_of_settled, afterAll_receive_of_settled, hd₁, hd₂, hd₃, hd₄, hd₅, hd₆, takeByte_writeAddress,
    takeByte_pointer, takeByte_readAddress, supplyByte_supplying]

/-- A settled platform that has received a byte allows no other in `DATA`. -/
theorem Platform.eq_of_settled_allows_data {a : DevAddr} {r : Byte → Option Byte} {k : Option Byte} {m : BusMode}
    {x b v : Byte} (h : (settled a r k m x (some b)).allows (.read .data v) = true) : v = b := by
  simpa [Platform.allows, settled] using h

/-- The echo on the platform's side: if the accesses of the two commands keep the contract, the byte fetched is the byte
sent. -/
theorem Platform.readByte_echoes (p : Platform) {reg b d p₁ p₂ p₃ p₄ p₅ q₁ q₂ q₃ q₄ q₅ q₆ q₇ : Byte}
    (hp : allDone [p₁, p₂, p₃, p₄, p₅]) (hq : allDone [q₁, q₂, q₃, q₄, q₅, q₆])
    (hc : p.conforms (readByteTrace true p.address reg d q₁ q₂ q₃ q₄ q₅ q₆ q₇ ++
      writeByteTrace true p.address reg b p₁ p₂ p₃ p₄ p₅).reverse = true) : d = b := by
  obtain ⟨r, k, m, x, hr, hw⟩ := p.afterAll_writeByteTrace reg b hp
  have hfetch : (readByteTrace true p.address reg d q₁ q₂ q₃ q₄ q₅ q₆ q₇ ++
      writeByteTrace true p.address reg b p₁ p₂ p₃ p₄ p₅).reverse =
      ((writeByteTrace true p.address reg b p₁ p₂ p₃ p₄ p₅).reverse ++
        (readByteTraceToReceive true p.address reg q₁ q₂ q₃ q₄ q₅ q₆).reverse) ++
      .read .data d :: (conditionTrace (controlWord stopBits true) q₇).reverse := by
    simp [readByteTrace]
  rw [hfetch] at hc
  have ha := Platform.allows_of_conforms hc
  rw [Platform.afterAll_append, hw, afterAll_readByteTraceToReceive reg hq, hr] at ha
  exact eq_of_settled_allows_data ha

/-- Settles O37: the runs of the two commands are known access by access, and on the platform those accesses store the
byte and then supply it. -/
theorem writeThenReadEchoes : Obligations.WriteThenReadEchoes := by
  unfold Obligations.WriteThenReadEchoes
  intro s p reg b d ps qs rest q hen hph hi hps hqs hdps hdqs hdq ha
  obtain ⟨p₁, p₂, p₃, p₄, p₅, rfl⟩ : ∃ p₁ p₂ p₃ p₄ p₅, ps = [p₁, p₂, p₃, p₄, p₅] := by
    match ps, hps with
    | [p₁, p₂, p₃, p₄, p₅], _ => exact ⟨p₁, p₂, p₃, p₄, p₅, rfl⟩
  obtain ⟨q₁, q₂, q₃, q₄, q₅, q₆, rfl⟩ : ∃ q₁ q₂ q₃ q₄ q₅ q₆, qs = [q₁, q₂, q₃, q₄, q₅, q₆] := by
    match qs, hqs with
    | [q₁, q₂, q₃, q₄, q₅, q₆], _ => exact ⟨q₁, q₂, q₃, q₄, q₅, q₆, rfl⟩
  have hdq : allDone ([q₁, q₂, q₃, q₄, q₅, q₆] ++ [q]) := by
    simpa [allDone, or_imp, forall_and, hdq] using hdqs
  refine ⟨_, _, _, _, readByteTrace true p.address reg d q₁ q₂ q₃ q₄ q₅ q₆ q ++
      writeByteTrace true p.address reg b p₁ p₂ p₃ p₄ p₅, exec_command_of_idle rfl hph, stepN_writeByte hi ha hdps,
    exec_command_of_idle rfl rfl, stepN_readByte hi rfl hdq, rfl, rfl, ?_, p.readByte_echoes hdps hdqs⟩
  simp [hen]

end Sys2Proof.Machine

namespace Sys2Proof.Machine

/-! ### The rows of the command words (30_encoding.md R114, R115) -/

section
variable {w : Word}

theorem matches32_iff {mask pattern : Word} : matches32 w mask pattern = true ↔ w &&& mask = pattern := by
  simp [matches32]

/-- Every row's mask covers the opcode, so a word that matches one row matches no row of another opcode. -/
theorem matches32_other_opcode {mask pattern mask' pattern' : Word} (h : matches32 w mask pattern = true)
    (hm : mask.extractLsb' 28 4 = BitVec.allOnes 4) (hm' : mask'.extractLsb' 28 4 = BitVec.allOnes 4)
    (hne : pattern.extractLsb' 28 4 ≠ pattern'.extractLsb' 28 4) : matches32 w mask' pattern' = false := by
  rw [Bool.eq_false_iff]
  intro h'
  exact hne ((extractLsb'_of_matches h 28 4 hm).symm.trans (extractLsb'_of_matches h' 28 4 hm'))

theorem decodeCommand_of_init_row (h : w &&& 0xFFFFFF00#32 = 0x10000000#32) :
    decodeCommand w = .ok (.init (argField w)) := by
  simp [decodeCommand, matches32_iff.mpr h]

theorem decodeCommand_of_writeByte_row (h : w &&& 0xF8000F00#32 = 0x20000000#32) :
    decodeCommand w = .ok (.writeByte (devField w) (regField w) (argField w)) := by
  have hm := matches32_iff.mpr h
  simp [decodeCommand, hm, matches32_other_opcode hm]

theorem decodeCommand_of_writeBytes_row (h : w &&& 0xF8000F00#32 = 0x30000000#32) :
    decodeCommand w = .ok (.writeBytes (devField w) (regField w) (argField w)) := by
  have hm := matches32_iff.mpr h
  simp [decodeCommand, hm, matches32_other_opcode hm]

theorem decodeCommand_of_readByte_row (h : w &&& 0xF8000FFF#32 = 0x40000000#32) :
    decodeCommand w = .ok (.readByte (devField w) (regField w)) := by
  have hm := matches32_iff.mpr h
  simp [decodeCommand, hm, matches32_other_opcode hm]

theorem decodeCommand_of_readBytes_row (h : w &&& 0xF8000F00#32 = 0x50000000#32) :
    decodeCommand w = .ok (.readBytes (devField w) (regField w) (argField w)) := by
  have hm := matches32_iff.mpr h
  simp [decodeCommand, hm, matches32_other_opcode hm]

end

/-- The word satisfies the mask and match of the command's row; a phase action has no such row. -/
def satisfiesRowOf (w : Word) : Instr → Prop
  | .init _ => w &&& 0xFFFFFF00#32 = 0x10000000#32
  | .writeByte _ _ _ => w &&& 0xF8000F00#32 = 0x20000000#32
  | .writeBytes _ _ _ => w &&& 0xF8000F00#32 = 0x30000000#32
  | .readByte _ _ => w &&& 0xF8000FFF#32 = 0x40000000#32
  | .readBytes _ _ _ => w &&& 0xF8000F00#32 = 0x50000000#32
  | .start _ | .rstart _ | .send _ | .recvAck _ | .recvNack _ | .stop _ | .enable => False

theorem satisfiesRowOf_of_decodeCommand {w : Word} {i : Instr} (h : decodeCommand w = .ok i) :
    satisfiesRowOf w i := by
  rcases decodeCommand_cases h with ⟨hm, rfl⟩ | ⟨hm, rfl⟩ | ⟨hm, rfl⟩ | ⟨hm, rfl⟩ | ⟨hm, rfl⟩ <;>
    exact matches32_iff.mp hm

/-! ### The keys of the control words (30_encoding.md R116 to R120) -/

/-- A key is its upper eight bits and its `EN` bit. -/
theorem key_eq_append_en (k : Key) : k.extractLsb' 1 8 ++ BitVec.ofBool (k.getLsbD 0) = k := by
  apply BitVec.eq_of_getLsbD_eq; intro i hi
  simp only [BitVec.getLsbD_append, BitVec.getLsbD_extractLsb']
  interval_cases i <;> simp

/-- An action's row fixes every bit of the key but `EN`. -/
theorem keyWord_of_row {k : Key} {own go ack rd sto sta : Bool}
    (h : matches9 k 0x1FE#9 (keyWord own go ack rd sto sta false) = true) :
    keyWord own go ack rd sto sta (k.getLsbD 0) = k := by
  have hand : k &&& 0x1FE#9 = keyWord own go ack rd sto sta false := by simpa [matches9] using h
  have hupper : k.extractLsb' 1 8 = (keyWord own go ack rd sto sta false).extractLsb' 1 8 := by
    rw [← hand, BitVec.extractLsb'_and, show (0x1FE#9).extractLsb' 1 8 = BitVec.allOnes 8 from rfl, BitVec.and_allOnes]
  have hk := key_eq_append_en k
  rw [hupper, keyWord, BitVec.extractLsb'_append_eq_left] at hk
  exact hk

/-- The seven rows of R118 and R119. -/
theorem decodeKey_cases {k : Key} {i : Instr} (h : decodeKey k = .ok i) :
    (matches9 k 0x1FE#9 0x082#9 = true ∧ i = .start (k.getLsbD 0)) ∨
    (matches9 k 0x1FE#9 0x182#9 = true ∧ i = .rstart (k.getLsbD 0)) ∨
    (matches9 k 0x1FE#9 0x180#9 = true ∧ i = .send (k.getLsbD 0)) ∨
    (matches9 k 0x1FE#9 0x198#9 = true ∧ i = .recvAck (k.getLsbD 0)) ∨
    (matches9 k 0x1FE#9 0x188#9 = true ∧ i = .recvNack (k.getLsbD 0)) ∨
    (matches9 k 0x1FE#9 0x184#9 = true ∧ i = .stop (k.getLsbD 0)) ∨
    (matches9 k 0x1FF#9 0x001#9 = true ∧ i = .enable) := by
  unfold decodeKey at h
  repeat' split at h
  all_goals simp_all

/-! ### The two round trips -/

theorem encode_command {i : Instr} {o : Opcode} {d : DevAddr} {r a : Byte} (h : commandFields? i = some (o, d, r, a)) :
    encode i = .command (commandWord o.code d r a) := by
  cases i <;> cases h <;> rfl

theorem decode_encode (i : Instr) : decode (encode i) = .ok i := by
  cases i with
  | init div =>
    simpa only [decode, encode, argField_commandWord] using
      decodeCommand_of_init_row (commandWord_and_initMask 1#4 0#7 0#8 div)
  | writeByte dev reg data =>
    simpa only [decode, encode, devField_commandWord, regField_commandWord, argField_commandWord] using
      decodeCommand_of_writeByte_row (commandWord_and_mask 2#4 dev reg data)
  | writeBytes dev reg count =>
    simpa only [decode, encode, devField_commandWord, regField_commandWord, argField_commandWord] using
      decodeCommand_of_writeBytes_row (commandWord_and_mask 3#4 dev reg count)
  | readByte dev reg =>
    simpa only [decode, encode, devField_commandWord, regField_commandWord] using
      decodeCommand_of_readByte_row (commandWord_and_readByteMask 4#4 dev reg 0#8)
  | readBytes dev reg count =>
    simpa only [decode, encode, devField_commandWord, regField_commandWord, argField_commandWord] using
      decodeCommand_of_readBytes_row (commandWord_and_mask 5#4 dev reg count)
  | enable => rfl
  -- an action's key has one free bit
  | start e | rstart e | send e | recvAck e | recvNack e | stop e => cases e <;> rfl

theorem encode_of_decodeCommand {w : Word} {i : Instr} (h : decodeCommand w = .ok i) : encode i = .command w := by
  obtain ⟨⟨o, d, r, a⟩, hf⟩ := decodeCommand_fields h
  rw [encode_command hf, commandWord_of_decodeCommand h hf]

theorem encode_of_decodeKey {k : Key} {i : Instr} (h : decodeKey k = .ok i) : encode i = .key k := by
  rcases decodeKey_cases h with ⟨hm, rfl⟩ | ⟨hm, rfl⟩ | ⟨hm, rfl⟩ | ⟨hm, rfl⟩ | ⟨hm, rfl⟩ | ⟨hm, rfl⟩ | ⟨hm, rfl⟩
  -- the six action rows leave `EN` free, and `ENABLE` is matched in full
  iterate 6 · exact congrArg Encoded.key (keyWord_of_row hm)
  · have hand : k &&& BitVec.allOnes 9 = 0x001#9 := by simpa [matches9] using hm
    rw [BitVec.and_allOnes] at hand
    rw [hand]; rfl

/-- Settles O1: an encoded command satisfies its row and has its operands in its fields, and a key has its row's bits. -/
theorem decodeEncodeAgree : Obligations.DecodeEncodeAgree := fun i _ => decode_encode i

/-- Settles O2: the decoder's rows fix every bit of a word that no operand of the instruction holds. -/
theorem encodeDecodeAgree : Obligations.EncodeDecodeAgree := by
  unfold Obligations.EncodeDecodeAgree
  rintro (w | k) i h
  · exact encode_of_decodeCommand h
  · exact encode_of_decodeKey h

/-- Settles O3: a word that satisfies a row decodes by it, one that decodes satisfies the row of its instruction, and
so a word is refused where no row is satisfied. -/
theorem commandRowsDecideDecoding : Obligations.CommandRowsDecideDecoding := by
  unfold Obligations.CommandRowsDecideDecoding
  refine fun w => ⟨⟨fun h => ⟨_, decodeCommand_of_init_row h⟩, ?init⟩,
    ⟨fun h => ⟨_, _, _, decodeCommand_of_writeByte_row h⟩, ?writeByte⟩,
    ⟨fun h => ⟨_, _, _, decodeCommand_of_writeBytes_row h⟩, ?writeBytes⟩,
    ⟨fun h => ⟨_, _, decodeCommand_of_readByte_row h⟩, ?readByte⟩,
    ⟨fun h => ⟨_, _, _, decodeCommand_of_readBytes_row h⟩, ?readBytes⟩, ?refused, ?noRow⟩
  case init => exact fun ⟨_, h⟩ => satisfiesRowOf_of_decodeCommand h
  case writeByte | writeBytes | readBytes => exact fun ⟨_, _, _, h⟩ => satisfiesRowOf_of_decodeCommand h
  case readByte => exact fun ⟨_, _, h⟩ => satisfiesRowOf_of_decodeCommand h
  case refused =>
    rintro ⟨e, he⟩
    have notOk (i : Instr) (h : decodeCommand w = .ok i) : False := by simp [he] at h
    exact ⟨fun h => notOk _ (decodeCommand_of_init_row h), fun h => notOk _ (decodeCommand_of_writeByte_row h),
      fun h => notOk _ (decodeCommand_of_writeBytes_row h), fun h => notOk _ (decodeCommand_of_readByte_row h),
      fun h => notOk _ (decodeCommand_of_readBytes_row h)⟩
  case noRow =>
    rintro ⟨hinit, hwriteByte, hwriteBytes, hreadByte, hreadBytes⟩
    cases hd : decodeCommand w with
    | error e => exact ⟨e, rfl⟩
    | ok i =>
      have hrow := satisfiesRowOf_of_decodeCommand hd
      cases i with
      | init => exact absurd hrow hinit
      | writeByte => exact absurd hrow hwriteByte
      | writeBytes => exact absurd hrow hwriteBytes
      | readByte => exact absurd hrow hreadByte
      | readBytes => exact absurd hrow hreadBytes
      | start | rstart | send | recvAck | recvNack | stop | enable => exact hrow.elim

/-! ### The control words the phases issue (30_encoding.md R116 to R120) -/

/-- The instruction of a bus phase has the key of the word the phase issues: `OWN` as it stands at `ISSUE`, then the
phase's action bits with `EN`. -/
theorem encode_phaseInstr {p : Phase} {b : Byte} (h : actionBits? p = some b) (e : Bool) :
    ∃ i, phaseInstr? p e = some i ∧
      encode i = .key (BitVec.ofBool (ownExpected p .issue) ++ controlWord b e) := by
  cases p <;> cases h <;> cases e <;> exact ⟨_, rfl, rfl⟩

/-- Settles O6: the invariant fixes `OWN` at `ISSUE`, and the key is then the encoding of the phase's instruction. -/
theorem issuedKeyDecodesToTheActionRun : Obligations.IssuedKeyDecodesToTheActionRun := by
  unfold Obligations.IssuedKeyDecodesToTheActionRun
  intro s b hinv hm hb
  obtain ⟨i, hi, he⟩ := encode_phaseInstr hb s.en
  have hown : s.own = ownExpected s.ph .issue := hm ▸ hinv.ownFlag
  have hdec : decode (encode i) = .ok i := decode_encode i
  rw [he, ← hown] at hdec
  exact ⟨i, hi, hdec⟩

/-- A turn of the sequencer that writes `CTRL` is the `ISSUE` of a bus phase or the second micro-step of `INIT`. -/
theorem sequencerStep_ctrl_write {s t : State} {w : Byte} (h : sequencerStep s = .next t)
    (hw : t.history = .write .ctrl w :: s.history) :
    w = controlWord s.ph.word s.en ∨ (w = enableWord ∧ s.ph = .init ∧ s.ms = .issue) := by
  rcases sequencerStep_history h with ⟨-, rfl⟩ | ⟨-, -, e⟩ | ⟨hp, hm, e⟩ | ⟨b, -, -, e⟩ | ⟨-, -, e⟩ | ⟨-, -, e⟩ |
    ⟨-, -, e⟩
  · simp at hw
  all_goals
    rw [e] at hw
    injection hw with hw _
    cases hw
  · exact .inr ⟨rfl, hp, hm⟩
  · exact .inl rfl

/-- The ten action words: five with `EN` = 0, and the same with bit 0 set. -/
theorem controlWord_word_values (p : Phase) (e : Bool) :
    ((controlWord p.word e = 0x82 ∨ controlWord p.word e = 0x80 ∨ controlWord p.word e = 0x98 ∨
      controlWord p.word e = 0x88 ∨ controlWord p.word e = 0x84) ∧ e = false) ∨
    ((controlWord p.word e = 0x83 ∨ controlWord p.word e = 0x81 ∨ controlWord p.word e = 0x99 ∨
      controlWord p.word e = 0x89 ∨ controlWord p.word e = 0x85) ∧ e = true) := by
  cases p <;> cases e <;> decide

theorem sequencerStep_ctrl_values {s t : State} {w : Byte} (h : sequencerStep s = .next t)
    (hw : t.history = .write .ctrl w :: s.history) :
    ((w = 0x82 ∨ w = 0x80 ∨ w = 0x98 ∨ w = 0x88 ∨ w = 0x84) ∧ s.en = false) ∨
    ((w = 0x83 ∨ w = 0x81 ∨ w = 0x99 ∨ w = 0x89 ∨ w = 0x85) ∧ s.en = true) ∨
    (w = 0x01 ∧ s.ph = .init ∧ s.ms = .issue) := by
  rcases sequencerStep_ctrl_write h hw with rfl | henable
  · exact (controlWord_word_values s.ph s.en).imp_right .inl
  · exact .inr (.inr henable)

/-- Settles O46: only a turn of the sequencer writes `CTRL`, and its words are these. -/
theorem ctrlWordsAreExactlyTheSeven : Obligations.CtrlWordsAreExactlyTheSeven := by
  unfold Obligations.CtrlWordsAreExactlyTheSeven
  intro s t w h hw
  rcases step_cases h with ⟨-, hs⟩ | ⟨l, -, hs⟩ | ⟨a, l, -, hs⟩ | ⟨a, l, -, rfl⟩
  · exact sequencerStep_ctrl_values hs hw
  · exact (sequencerStep_ctrl_values hs hw :)
  · have hhist : t.history = s.history := (hostAccess_history hs :)
    simp [hhist] at hw
  · simp [resetCycle] at hw

/-! ### The examples and the codes of the tables (30_encoding.md R112, R117, R119, R125 to R127, R131) -/

/-- A table word that is an instruction's encoding is read as that instruction. -/
theorem decodeTableWord_of_encode {nbits n : Nat} {i : Instr} (h : tableWord nbits n = .ok (encode i)) :
    decodeTableWord nbits n = some i := by
  simp only [decodeTableWord, h, decode_encode]; rfl

/-- Settles O4: each word is the encoding, and the round trip reads it back. -/
theorem ruleExampleWordsDecode : Obligations.RuleExampleWordsDecode :=
  ⟨⟨rfl, decodeTableWord_of_encode rfl⟩, ⟨rfl, decodeTableWord_of_encode rfl⟩, ⟨rfl, decodeTableWord_of_encode rfl⟩,
    ⟨rfl, decodeTableWord_of_encode rfl⟩, ⟨rfl, decodeTableWord_of_encode rfl⟩, ⟨rfl, decodeTableWord_of_encode rfl⟩,
    ⟨rfl, decodeTableWord_of_encode rfl⟩⟩

/-- Settles O5: each key is its action's encoding. -/
theorem controlWordKeysDecode : Obligations.ControlWordKeysDecode :=
  ⟨decodeTableWord_of_encode rfl, decodeTableWord_of_encode rfl, decodeTableWord_of_encode rfl,
    decodeTableWord_of_encode rfl, decodeTableWord_of_encode rfl, decodeTableWord_of_encode rfl,
    decodeTableWord_of_encode rfl⟩

/-- Settles O7: the codes are the definitions' own. -/
theorem codesAreTheTables : Obligations.CodesAreTheTables := by
  unfold Obligations.CodesAreTheTables
  decide

end Sys2Proof.Machine

namespace Sys2Proof.Machine

/-! ### The two micro-steps of `INIT` (40_init.md R140 to R144) -/

section
variable {s : State}

/-- With no input left, `INIT` at `LOAD` configures the divisor (R141). -/
theorem step_init_load (hp : s.ph = .init) (hm : s.ms = .load) (hi : s.inputs = []) :
    step s = .next (configureDivisor s) :=
  (step_of_no_inputs hi).trans (sequencerStep_init_load ⟨hp, hm⟩)

/-- With no input left, `INIT` at `ISSUE` runs `ENABLE` (R142). -/
theorem step_init_issue (hp : s.ph = .init) (hm : s.ms = .issue) (hi : s.inputs = []) :
    step s = exec .enable s := by
  rw [step_of_no_inputs hi, sequencerStep_of_phaseInstr (i := .enable) (by simp [hp, phaseInstr?]) (by simp [hm])]

/-- The `ENABLE` word has `GO` = 0, so writing it leaves `STAT` as it was; no other element is touched but `EN` and
those of `finish(Success)`. -/
theorem exec_enable_of_init (hp : s.ph = .init) (hm : s.ms = .issue) :
    exec .enable s = .next { s with
      en := true, ph := .idle, ms := .load, own := false, result := .success, valid := true,
      facade := { s.facade with ctrl := 0x01#8 }, history := .write .ctrl 0x01#8 :: s.history } := by
  have hgo : goFlag enableWord = false := by decide
  have hexec : exec .enable s = .next (finish .success { facWrite .ctrl enableWord s with en := true }) := by
    simp [exec, execEnable, hp, hm]
  rw [hexec, facWrite_ctrl_of_not_go s hgo]; rfl

end

/-- Settles O15: the first micro-step is the divisor's, the second is `ENABLE`. -/
theorem initMicroSteps : Obligations.InitMicroSteps := by
  unfold Obligations.InitMicroSteps
  exact fun s hp => ⟨step_init_load hp, exec_enable_of_init hp⟩

/-- Settles O16: `INIT` is accepted, its two micro-steps follow, and `finish` returns `PH` to the `IDLE` it was in. -/
theorem initRunsToSuccess : Obligations.InitRunsToSuccess := by
  unfold Obligations.InitRunsToSuccess
  intro s div hp hi
  have accepted : exec (.init div) s = .next (acceptCommand .init 0 0 div s) := exec_command_of_idle rfl hp
  have divisor := step_init_load (s := acceptCommand .init 0 0 div s) rfl rfl hi
  have enable := (step_init_issue (s := configureDivisor (acceptCommand .init 0 0 div s)) rfl rfl hi).trans
    (exec_enable_of_init rfl rfl)
  refine ⟨_, accepted, ?_⟩
  rw [stepN_two divisor enable, ← hp]; rfl

/-- Settles O17: the run of the second `INIT` is `initRunsToSuccess` once more, from the state the first has left, where
every element it writes but the history already has the value written. -/
theorem initRerunIsIdempotent : Obligations.InitRerunIsIdempotent := by
  unfold Obligations.InitRerunIsIdempotent
  intro s t t₁ div hp hi haccept hrun
  obtain ⟨t', haccept', hrun'⟩ := initRunsToSuccess s div hp hi
  cases haccept'.symm.trans haccept
  cases hrun'.symm.trans hrun
  exact initRunsToSuccess _ div hp hi

end Sys2Proof.Machine

namespace Sys2Proof.Machine

/-! ### The micro-steps of a phase, as the meaning of the phase's action (41_phase_sequencer.md R151 to R158) -/

/-- Where an action is issued it is the phase's instruction, with some operand, and the phase is a bus phase. -/
theorem phaseInstr_of_mem_issuingPhases {i : Instr} {p : Phase} (hp : p ∈ issuingPhases i) (hi : i ≠ .enable) :
    p.isBus = true ∧ ∃ e, phaseInstr? p e = some i := by
  cases i
  case enable => exact absurd rfl hi
  case start | rstart | recvAck | recvNack => rw [List.mem_singleton.mp hp]; exact ⟨rfl, _, rfl⟩
  case send | stop =>
    simp only [issuingPhases, List.mem_cons, List.not_mem_nil, or_false] at hp
    casesm* _ ∨ _ <;> subst hp <;> exact ⟨rfl, _, rfl⟩
  all_goals cases hp

section
variable {s : State} {i : Instr} {e : Bool}

/-- The instruction of a bus phase is the micro-step that `MS` names, for either operand; `sequencerStep_bus` says it
of the operand `EN`. -/
theorem exec_phaseInstr (hi : phaseInstr? s.ph e = some i) (hb : s.ph.isBus = true) :
    exec i s =
      match s.ms with
      | .load => if s.ph.isSend then loadByte s else .fault .noMicroStep
      | .issue => .next (issueWord s.ph.word e s)
      | .poll => poll s
      | .fetch => if s.ph.isReceive then .next (fetch s) else .fault .noMicroStep := by
  cases hp : s.ph
  case idle | init => rw [hp] at hb; cases hb
  all_goals
    rw [hp] at hi
    cases hi
    cases hm : s.ms <;>
      simp [exec, execStart, execRstart, execSend, execRecvAck, execRecvNack, execStop, conditionStep, sendStep,
        receiveStep, Phase.isSend, Phase.isReceive, Phase.word, hp, hm]

theorem exec_phaseInstr_issue (hi : phaseInstr? s.ph e = some i) (hb : s.ph.isBus = true) (hm : s.ms = .issue) :
    exec i s = .next (issueWord s.ph.word e s) := by
  rw [exec_phaseInstr hi hb, hm]

theorem exec_phaseInstr_poll (hi : phaseInstr? s.ph e = some i) (hb : s.ph.isBus = true) (hm : s.ms = .poll) :
    exec i s = poll s := by
  rw [exec_phaseInstr hi hb, hm]

theorem exec_phaseInstr_fetch (hi : phaseInstr? s.ph e = some i) (hr : s.ph.isReceive = true) (hm : s.ms = .fetch) :
    exec i s = .next (fetch s) := by
  have hb : s.ph.isBus = true := by cases h : s.ph <;> simp_all [Phase.isReceive, Phase.isBus]
  rw [exec_phaseInstr hi hb, hm]
  exact if_pos hr

end

/-- All that `ISSUE` does: every action word has `GO` = 1, so its write clears `DONE` as well. -/
theorem issueWord_word (s : State) (e : Bool) :
    issueWord s.ph.word e s = { s with
      own := if s.ph = .start then true else s.own
      tcnt := s.params.tmo
      ms := .poll
      facade := { s.facade with ctrl := controlWord s.ph.word e, stat := s.facade.stat &&& 0xFE#8 }
      history := .write .ctrl (controlWord s.ph.word e) :: s.history } := by
  simp [issueWord, facWrite, Facade.store, goFlag_word]

/-- Settles O19: each row names its phase's instruction and its phase's word, and `ISSUE` writes that word. -/
theorem actionsIssueTheirControlWord : Obligations.ActionsIssueTheirControlWord := by
  unfold Obligations.ActionsIssueTheirControlWord
  intro s i e w hm hrow
  have key : phaseInstr? s.ph e = some i ∧ s.ph.isBus = true ∧ controlWord s.ph.word e = w := by
    rcases hrow with ⟨rfl, hp, rfl⟩ | ⟨rfl, hp, rfl⟩ | ⟨rfl, hp | hp | hp | hp, rfl⟩ | ⟨rfl, hp, rfl⟩ |
      ⟨rfl, hp, rfl⟩ | ⟨rfl, hp | hp, rfl⟩ <;>
    rw [hp] <;> cases e <;> exact ⟨rfl, rfl, rfl⟩
  obtain ⟨hi, hb, rfl⟩ := key
  rw [exec_phaseInstr_issue hi hb hm, issueWord_word]

/-- What `LOAD` does when there is a byte to send (R153). -/
theorem loadByte_of_sendByte {s : State} {b : Byte} (h : sendByte s = .ok b) :
    loadByte s = .next { facWrite .data b s with ms := .issue } := by
  simp [loadByte, h]

/-- Settles O20: each row is a row of `sendbyte()` in a send phase. -/
theorem sendLoadsItsByte : Obligations.SendLoadsItsByte := by
  unfold Obligations.SendLoadsItsByte
  intro s e b hm hrow
  have key : s.ph.isSend = true ∧ sendByte s = .ok b := by
    rcases hrow with ⟨hp, rfl⟩ | ⟨hp, rfl⟩ | ⟨hp, ho, rfl⟩ | ⟨hp, ho, hread⟩ | ⟨hp, rfl⟩ <;>
    simp [*, sendByte, Phase.isSend, addressByte]
  obtain ⟨hs, hbyte⟩ := key
  rw [exec_send_load hs hm, loadByte_of_sendByte hbyte]; rfl

/-! ### `FETCH` (R158) -/

theorem fetch_history (s : State) : (fetch s).history = .read .data (facAnswer s) :: s.history := by
  simp only [fetch, enter_history]
  rcases storeReceived_cases (facAnswer s) (facRead .data s) with ⟨-, e⟩ | ⟨-, e⟩ <;> rw [e] <;> rfl

/-- `FETCH` reads `DATA` and touches nothing beyond the byte's place, `IDX` and the position. -/
theorem fetch_eq (s : State) :
    fetch s = { facRead .data s with
      rdata := (fetch s).rdata, buf := (fetch s).buf, idx := s.idx + 1, ph := afterReceive (s.idx + 1) s
      ms := .issue } := by
  rw [← fetch_ms s]
  unfold fetch
  rcases storeReceived_cases (facAnswer s) (facRead .data s) with ⟨-, e⟩ | ⟨-, e⟩ <;> rw [e] <;> rfl

/-- The phase after a receive phase depends on the kind of acknowledge it gave and on what is left to receive. -/
theorem afterReceive_of_isReceive {s : State} (hr : s.ph.isReceive = true) (n : Byte) :
    afterReceive n s =
      if s.ph = .dataRNack then .stop else if n.toNat + 1 = s.cnt then .dataRNack else .dataRAck := by
  cases hp : s.ph <;> simp [hp, Phase.isReceive, afterReceive] at hr ⊢

/-- Settles O24: `FETCH` of either receive phase, its frame, and the cell it writes. -/
theorem fetchStoresTheByte : Obligations.FetchStoresTheByte := by
  unfold Obligations.FetchStoresTheByte
  intro s e i hm hrow
  have key : phaseInstr? s.ph e = some i ∧ s.ph.isReceive = true := by
    rcases hrow with ⟨rfl, hp⟩ | ⟨rfl, hp⟩ <;> rw [hp] <;> exact ⟨rfl, rfl⟩
  obtain ⟨hi, hr⟩ := key
  obtain ⟨hregs, -, -, hbyte, hbytes⟩ := fetch_frame s
  refine ⟨fetch s, exec_phaseInstr_fetch hi hr hm, fetch_history s, rfl, fun ho => ⟨?rdata, hbyte ho⟩,
    fun ho => ⟨(hbytes ho).1, fun a => ?cell⟩, afterReceive_of_isReceive hr _, fetch_ms s, ?frame⟩
  case rdata => simp [fetch, storeReceived, ho]
  case cell => rw [(hbytes ho).2, Memory.read_write]
  case frame => rw [fetch_ms]; exact fetch_eq s

/-! ### `POLL` (R156, R157, R169; 60_exceptions.md R239, R240) -/

section
variable {s : State}

/-- A poll that sees `DONE` = 0 with budget left counts down. -/
theorem poll_countsDown (hd : doneFlag (facAnswer s) = false) (ht : 2 ≤ s.tcnt) :
    poll s = .next { facRead .stat s with tcnt := s.tcnt - 1 } := by
  have hleft : s.tcnt - 1 ≠ 0 := by omega
  simp [poll, hd, pollNotDone, hleft]

/-- A poll that sees `DONE` = 0 on the last of the budget lets it expire. -/
theorem poll_expires (hd : doneFlag (facAnswer s) = false) (ht : s.tcnt = 1) :
    poll s = .next (expire { facRead .stat s with tcnt := 0 }) := by
  simp [poll, hd, pollNotDone, ht]

/-- A poll of a receive phase that sees `DONE` = 1 goes on to `FETCH`, whatever is left of the budget. -/
theorem poll_receives (hd : doneFlag (facAnswer s) = true) (hr : s.ph.isReceive = true) :
    poll s = .next { facRead .stat s with ms := .fetch } := by
  simp [poll, hd, pollDone, hr]

end

/-- Settles O22: the action's `POLL`, by the flag. -/
theorem pollCountsDownOrGoesOn : Obligations.PollCountsDownOrGoesOn := by
  unfold Obligations.PollCountsDownOrGoesOn
  intro s i hm hp hne
  obtain ⟨hb, e, hi⟩ := phaseInstr_of_mem_issuingPhases hp hne
  rw [exec_phaseInstr_poll hi hb hm]
  refine ⟨poll_countsDown, fun hd hrecv => poll_receives hd ?_⟩
  rcases hrecv with h | h <;> rw [h] <;> rfl

/-! ### The budget of a phase (R155, R157, R169) -/

/-- `s` after polls of one phase that saw the answers `l`, none of them `DONE`, with `rest` still to come. -/
def missedPolls (l rest : List Byte) (s : State) : State :=
  { s with
    tcnt := s.tcnt - l.length
    answers := rest
    facade := { s.facade with stat := l.getLastD s.facade.stat }
    history := l.reverse.map (.read .stat) ++ s.history }

theorem missedPolls_append (l k rest : List Byte) (s : State) :
    missedPolls k rest (missedPolls l (k ++ rest) s) = missedPolls (l ++ k) rest s := by
  simp [missedPolls, Nat.sub_sub]

theorem pollCount_map_stat_append (l : List Byte) (h : List FacAccess) :
    pollCount (l.map (.read .stat) ++ h) = pollCount h + l.length := by
  induction l with
  | nil => rfl
  | cons v l ih => simp only [List.map_cons, List.cons_append, pollCount, ih, List.length_cons]; omega

theorem pollCount_missedPolls (l rest : List Byte) (s : State) :
    pollCount (missedPolls l rest s).history = pollCount s.history + l.length :=
  (pollCount_map_stat_append l.reverse s.history).trans (by rw [List.length_reverse])

section
variable {s : State} {v : Byte} {l rest : List Byte}

theorem step_missedPoll (hb : s.ph.isBus = true) (hm : s.ms = .poll) (hi : s.inputs = []) (ha : s.answers = v :: rest)
    (hv : doneFlag v = false) (ht : 2 ≤ s.tcnt) : step s = .next (missedPolls [v] rest s) := by
  rw [step_poll hb hm hi, poll_countsDown (by rwa [facAnswer_of_answers ha]) ht, facRead_of_answers ha]; rfl

theorem step_lastMissedPoll (hb : s.ph.isBus = true) (hm : s.ms = .poll) (hi : s.inputs = [])
    (ha : s.answers = v :: rest) (hv : doneFlag v = false) (ht : s.tcnt = 1) :
    step s = .next (expire (missedPolls [v] rest s)) := by
  have hzero : s.tcnt - [v].length = 0 := by rw [ht]; rfl
  rw [step_poll hb hm hi, poll_expires (by rwa [facAnswer_of_answers ha]) ht, facRead_of_answers ha, missedPolls, hzero]
  rfl

/-- Fewer answers with `DONE` = 0 than polls are left are so many polls, and the phase is still polling. -/
theorem stepN_missedPolls (hb : s.ph.isBus = true) (hm : s.ms = .poll) (hi : s.inputs = [])
    (ha : s.answers = l ++ rest) (hd : noneDone l) (ht : l.length < s.tcnt) :
    stepN l.length s = .next (missedPolls l rest s) := by
  induction l generalizing s with
  | nil =>
    obtain rfl : s.answers = rest := ha
    rfl
  | cons v l ih =>
    obtain ⟨hv, hl⟩ : doneFlag v = false ∧ noneDone l := List.forall_mem_cons.mp hd
    rw [List.length_cons] at ht ⊢
    have hleft : l.length < (missedPolls [v] (l ++ rest) s).tcnt := Nat.lt_sub_of_add_lt ht
    rw [stepN_succ (step_missedPoll (rest := l ++ rest) hb hm hi ha hv (by omega)),
      ih (s := missedPolls [v] (l ++ rest) s) hb hm hi rfl hl hleft, missedPolls_append, List.singleton_append]

/-- As many answers with `DONE` = 0 as polls are left are so many polls, and the last of them lets the budget expire. -/
theorem stepN_missedPolls_expire (hb : s.ph.isBus = true) (hm : s.ms = .poll) (hi : s.inputs = [])
    (ha : s.answers = l ++ rest) (hd : noneDone l) (hne : l ≠ []) (ht : l.length = s.tcnt) :
    stepN l.length s = .next (expire (missedPolls l rest s)) := by
  obtain rfl | ⟨m, v, rfl⟩ := List.eq_nil_or_concat' l
  · exact absurd rfl hne
  obtain ⟨hmiss, hv⟩ : noneDone m ∧ noneDone [v] := List.forall_mem_append.mp hd
  rw [List.append_assoc] at ha
  rw [List.length_append] at ht ⊢
  have polls := stepN_missedPolls hb hm hi ha hmiss (by rw [← ht]; exact Nat.lt_succ_self _)
  have hlast : (missedPolls m ([v] ++ rest) s).tcnt = 1 := by simp [missedPolls, ← ht]
  have expiry := step_lastMissedPoll (s := missedPolls m ([v] ++ rest) s) (rest := rest) hb hm hi rfl
    (hv v (List.mem_singleton_self v)) hlast
  rw [missedPolls_append] at expiry
  exact stepN_trans polls (stepN_succ expiry)

end

/-- Settles O28: `ISSUE` loads the budget afresh, and from there the answers use it up or do not. -/
theorem budgetIsExactlyTmoPolls : Obligations.BudgetIsExactlyTmoPolls := by
  unfold Obligations.BudgetIsExactlyTmoPolls
  intro s l rest hb hm hi ha hd
  have issue : stepN 1 s = .next (issueWord s.ph.word s.en s) := stepN_succ (step_issue hb hm hi)
  have hcount : pollCount (missedPolls l rest (issueWord s.ph.word s.en s)).history = pollCount s.history + l.length :=
    pollCount_missedPolls ..
  refine ⟨fun hlt => ?polling, fun hall => ?expired⟩
  case polling =>
    have polls := stepN_missedPolls (s := issueWord s.ph.word s.en s) hb rfl hi ha hd hlt
    exact ⟨_, stepN_trans issue polls, rfl, rfl, rfl, hcount, rfl⟩
  case expired =>
    have hne : l ≠ [] := by rintro rfl; cases hall
    have run := stepN_trans issue (stepN_missedPolls_expire hb rfl hi ha hd hne hall)
    have hused : (missedPolls l rest (issueWord s.ph.word s.en s)).tcnt = 0 := by simp [missedPolls, hall]
    rw [hall] at hcount
    obtain ⟨hp, e⟩ | ⟨hp, e⟩ := expire_cases (missedPolls l rest (issueWord s.ph.word s.en s)) <;> rw [e] at run
    · exact ⟨_, run, hused, hcount, fun hn => absurd hp hn, fun _ => ⟨rfl, rfl, rfl, rfl, rfl⟩⟩
    · refine ⟨_, run, hused, hcount, fun _ => ⟨rfl, rfl, ?own⟩, fun hn => absurd hn hp⟩
      change (if s.ph = .start then true else s.own) = (s.own || s.ph == .start)
      by_cases hs : s.ph = .start <;> simp [hs]

end Sys2Proof.Machine

namespace Sys2Proof.Machine

/-! ### Who runs a command, and where it stops (42_transactions.md R190 to R193) -/

theorem step_of_host {s : State} {a : HostAccess} {l : List Input} (h : s.inputs = .host a :: l) :
    step s = hostAccess a { s with inputs := l } := by
  simp [step, h]

/-- A command is the fault of R193 while busy. -/
theorem exec_command_of_busy {i : Instr} {f : Opcode × DevAddr × Byte × Byte} (hf : commandFields? i = some f)
    {s : State} (hp : s.ph ≠ .idle) : exec i s = .fault .hostReentry := by
  obtain ⟨o, d, r, a⟩ := f
  rw [exec_command hf, issueCommand, busy_eq_true hp]; rfl

theorem hostAccess_writeCmd_of_busy {s : State} (hp : s.ph ≠ .idle) (w : Word) :
    hostAccess (.write 0x000#10 w) s = .fault .hostReentry := by
  have hr : hostReg 0x000#10 = .cmd := rfl
  simp only [hostAccess, hostWrite, hr, writeCmd, busy_eq_true hp, if_true]

/-- A reserved word is refused while idle (R192). -/
theorem hostAccess_writeCmd_of_reserved {s : State} {w : Word} {e : DecodeError} (hp : s.ph = .idle)
    (hd : decodeCommand w = .error e) : hostAccess (.write 0x000#10 w) s = .next (refuseCommand s) := by
  have hr : hostReg 0x000#10 = .cmd := rfl
  simp only [hostAccess, hostWrite, hr, writeCmd, busy_eq_false hp, hd, Bool.false_eq_true, if_false]

/-- A write of a word that decodes runs the command, idle or busy. -/
theorem hostAccess_writeCmd_of_decodes {s : State} {w : Word} {i : Instr} (hd : decodeCommand w = .ok i) :
    hostAccess (.write 0x000#10 w) s = exec i s := by
  by_cases hp : s.ph = .idle
  · exact hostAccess_writeCmd hp hd
  · obtain ⟨f, hf⟩ := decodeCommand_fields hd
    rw [hostAccess_writeCmd_of_busy hp, exec_command_of_busy hf hp]

/-- Settles O8: the host's turn is the write of `CMD`, which runs the command. -/
theorem stepRunsDecodedCommand : Obligations.StepRunsDecodedCommand := by
  unfold Obligations.StepRunsDecodedCommand
  intro s w l i hin hd
  rw [step_of_host hin, hostAccess_writeCmd_of_decodes hd]

/-- Settles O11: acceptance of each command's own fields. -/
theorem commandsAreAccepted : Obligations.CommandsAreAccepted := by
  unfold Obligations.CommandsAreAccepted
  exact fun s dev reg arg hp => ⟨exec_command_of_idle rfl hp, exec_command_of_idle rfl hp, exec_command_of_idle rfl hp,
    exec_command_of_idle rfl hp, exec_command_of_idle rfl hp⟩

theorem Opcode.code_eq_init {o : Opcode} : o.code = 1#4 ↔ o = .init := by
  cases o <;> decide

/-- Settles O12: `BUSY` first, then the decoder; an accepted word is the command word of the fields latched. -/
theorem cmdWriteIsAcceptedRefusedOrFaults : Obligations.CmdWriteIsAcceptedRefusedOrFaults := by
  unfold Obligations.CmdWriteIsAcceptedRefusedOrFaults
  refine fun s w => ⟨fun hp => hostAccess_writeCmd_of_busy hp w, ?refused, ?accepted⟩
  case refused =>
    rintro hp ⟨e, hd⟩
    exact hostAccess_writeCmd_of_reserved hp hd
  case accepted =>
    rintro hp ⟨i, hd⟩
    obtain ⟨⟨o, d, r, a⟩, hf⟩ := decodeCommand_fields hd
    rw [hostAccess_writeCmd hp hd, exec_command_of_idle hf hp]
    obtain rfl := commandWord_of_decodeCommand hd hf
    have hopc : (commandWord o.code d r a).extractLsb' 28 4 = o.code := opcField_commandWord o.code d r a
    refine ⟨_, rfl, hopc.symm, (devField_commandWord ..).symm, (regField_commandWord ..).symm,
      (argField_commandWord ..).symm, rfl, rfl, rfl, ?init, ?transaction, rfl⟩
    all_goals
      rw [hopc]
      simp +contextual [Opcode.code_eq_init, firstMicroStep, Phase.isSend]

/-! ### The decoded key of a phase action, and the placed word (30_encoding.md R116, R117) -/

theorem decodeKey_not_command {k : Key} {i : Instr} (h : decodeKey k = .ok i) : commandFields? i = none := by
  rcases decodeKey_cases h with ⟨-, rfl⟩ | ⟨-, rfl⟩ | ⟨-, rfl⟩ | ⟨-, rfl⟩ | ⟨-, rfl⟩ | ⟨-, rfl⟩ | ⟨-, rfl⟩ <;> rfl

/-- In a phase state that issues it, a decoded action is the phase's instruction, its operand the key's bit 0. -/
theorem phaseInstr_of_decodeKey {k : Key} {i : Instr} {p : Phase} (h : decodeKey k = .ok i)
    (hp : p ∈ issuingPhases i) (e : Bool) : phaseInstr? p (if i = .enable then e else k.getLsbD 0) = some i := by
  rcases decodeKey_cases h with ⟨-, rfl⟩ | ⟨-, rfl⟩ | ⟨-, rfl⟩ | ⟨-, rfl⟩ | ⟨-, rfl⟩ | ⟨-, rfl⟩ | ⟨-, rfl⟩ <;>
    revert hp p <;> simp [issuingPhases, phaseInstr?]

/-- The phase state a placed key is put in issues its action. -/
theorem placeKey_ph_mem {i : Instr} (h : commandFields? i = none) (o e : Bool) (s : State) :
    (placeKey i o e s).ph ∈ issuingPhases i := by
  simp only [placeKey]
  split
  · assumption
  · cases i
    case init | writeByte | writeBytes | readByte | readBytes => cases h
    all_goals simp [issuingPhases]

/-- The step after a placed key is the action, from the state as placed with the sequencer's turn taken. -/
theorem step_placeKey {k : Key} {i : Instr} (h : decodeKey k = .ok i) (o : Bool) (s : State) :
    step (placeKey i o (k.getLsbD 0) s) = exec i { placeKey i o (k.getLsbD 0) s with inputs := s.inputs } := by
  rw [step_of_tick rfl]
  have hp := placeKey_ph_mem (decodeKey_not_command h) o (k.getLsbD 0) s
  exact sequencerStep_of_phaseInstr (phaseInstr_of_decodeKey h hp s.en) nofun

/-- A table word read as a key is a number of nine bits, and the key has its bits. -/
theorem getLsbD_of_tableWord_key {nbits w : Nat} {k : Key} (h : tableWord nbits w = .ok (.key k)) {j : Nat}
    (hj : j < 9) : k.getLsbD j = w.testBit j := by
  unfold tableWord at h
  repeat' split at h
  all_goals cases h
  rw [BitVec.getLsbD_ofNat, decide_eq_true hj, Bool.true_and]

/-- Settles O10: a command word is the host's next access, a key the sequencer's next micro-step. -/
theorem placedWordRunsNext : Obligations.PlacedWordRunsNext := by
  unfold Obligations.PlacedWordRunsNext
  intro s nbits w i h
  unfold decodeTableWord at h
  rcases ht : tableWord nbits w with e | w' | k <;> rw [ht] at h
  · cases h
  · have hd : decodeCommand w' = .ok i := by
      cases hd : decodeCommand w' <;> simp [decode, hd, Except.toOption] at h ⊢; exact h
    have hw : s.withFetchWord nbits w = placeCommand w' s := by simp only [State.withFetchWord, ht]
    obtain ⟨f, hf⟩ := decodeCommand_fields hd
    exact ⟨fun _ => hw ▸ stepRunsDecodedCommand _ w' s.inputs i rfl hd, fun hn => by simp [hf] at hn⟩
  · have hd : decodeKey k = .ok i := by
      cases hd : decodeKey k <;> simp [decode, hd, Except.toOption] at h ⊢; exact h
    have hw : s.withFetchWord nbits w = placeKey i (k.getLsbD 8) (k.getLsbD 0) s := by
      simp only [State.withFetchWord, ht, hd]
    refine ⟨fun ⟨f, hf⟩ => by simp [decodeKey_not_command hd] at hf, fun hn =>
      ⟨_, placeKey_ph_mem hn (k.getLsbD 8) (k.getLsbD 0) s, ?_⟩⟩
    rw [hw, step_placeKey hd, ← getLsbD_of_tableWord_key ht (by decide), ← getLsbD_of_tableWord_key ht (by decide)]
    rfl

/-! ### `CMDERR` (10_state.md R33) -/

/-- The sequencer leaves `CMDERR` and the inputs. -/
theorem sequencerStep_frame {s t : State} (h : sequencerStep s = .next t) :
    t.cmderr = s.cmderr ∧ t.inputs = s.inputs := by
  have frame {t : State} (hf : microStepFrame s t) : t.cmderr = s.cmderr ∧ t.inputs = s.inputs := by
    obtain ⟨⟨-, -, -, -, -, -, -, herr, hinputs, -⟩, -⟩ := hf
    exact ⟨herr, hinputs⟩
  rcases sequencerStep_cases h with ⟨-, rfl⟩ | ⟨-, -, rfl⟩ | ⟨-, -, rfl⟩ | ⟨-, -, hl⟩ | ⟨-, -, rfl⟩ | ⟨-, -, hl⟩ |
    ⟨-, hm, rfl⟩
  iterate 3 · exact ⟨rfl, rfl⟩
  · exact frame (loadByte_microStepFrame hl)
  · exact ⟨rfl, rfl⟩
  · exact frame (poll_microStepFrame hl)
  · exact frame (fetch_microStepFrame hm)

/-- A host access leaves `CMDERR`, or is a write of `CMD` while idle that is accepted or refused. -/
theorem hostAccess_cmderr {a : HostAccess} {s t : State} (h : hostAccess a s = .next t) :
    t.cmderr = s.cmderr ∨
    (∃ w i, a = .write 0x000#10 w ∧ s.ph = .idle ∧ decodeCommand w = .ok i ∧ t.cmderr = false) ∨
    (∃ w e, a = .write 0x000#10 w ∧ s.ph = .idle ∧ decodeCommand w = .error e ∧ t = refuseCommand s) := by
  cases a with
  | read a =>
    obtain ⟨w, n, rfl⟩ := hostRead_cases h
    exact .inl rfl
  | write a w =>
    by_cases ha : a = 0x000#10
    · subst ha
      by_cases hp : s.ph = .idle
      · cases hd : decodeCommand w with
        | ok i =>
          obtain ⟨⟨o, d, r, x⟩, hf⟩ := decodeCommand_fields hd
          rw [hostAccess_writeCmd hp hd] at h
          obtain ⟨-, rfl⟩ := exec_command_next hf h
          exact .inr (.inl ⟨w, i, rfl, hp, hd, rfl⟩)
        | error e =>
          rw [hostAccess_writeCmd_of_reserved hp hd] at h
          cases h
          exact .inr (.inr ⟨w, e, rfl, hp, hd, rfl⟩)
      · rw [hostAccess_writeCmd_of_busy hp] at h
        cases h
    · obtain ⟨m, rfl⟩ := hostWrite_cases_of_ne_cmd ha h
      exact .inl rfl

/-- Settles O13: of the three agents only the host's write of `CMD` and a reset write `CMDERR`. -/
theorem cmderrIsSetByRefusalAndClearedByAcceptance : Obligations.CmderrIsSetByRefusalAndClearedByAcceptance := by
  unfold Obligations.CmderrIsSetByRefusalAndClearedByAcceptance
  intro s t h
  have unchanged (hk : t.cmderr = s.cmderr) {P Q : Prop} :
      (s.cmderr = true → t.cmderr = false → P) ∧ (s.cmderr = false → t.cmderr = true → Q) :=
    ⟨fun hs ht => by simp [hk, hs] at ht, fun hs ht => by simp [hk, hs] at ht⟩
  rcases step_cases h with ⟨-, hs⟩ | ⟨l, -, hs⟩ | ⟨a, l, hin, hs⟩ | ⟨a, l, hin, rfl⟩
  · exact unchanged (sequencerStep_frame hs).1
  · exact unchanged ((sequencerStep_frame hs).1 :)
  · rcases hostAccess_cmderr hs with hk | ⟨w, i, rfl, hp, hd, ht⟩ | ⟨w, e, rfl, hp, hd, rfl⟩
    · exact unchanged hk
    · exact ⟨fun _ _ => .inl ⟨w, l, i, hin, hp, hd⟩, fun _ hn => by simp [ht] at hn⟩
    · exact ⟨fun _ hn => by simp at hn, fun _ _ => ⟨w, l, e, hin, hp, hd, rfl⟩⟩
  · exact ⟨fun _ _ => .inr ⟨a, l, hin⟩, fun _ hn => by simp at hn⟩

/-! ### Where instructions and host accesses stop (30_encoding.md R117; 41_phase_sequencer.md R151; R266, R267) -/

/-- The micro-steps of a bus phase by its kind (R151). -/
theorem legalMicroStep_bus {p : Phase} (h : p.isBus = true) :
    legalMicroStep p .load = p.isSend ∧ legalMicroStep p .issue = true ∧ legalMicroStep p .poll = true ∧
      legalMicroStep p .fetch = p.isReceive := by
  cases p
  case idle | init => cases h
  all_goals exact ⟨rfl, rfl, rfl, rfl⟩

theorem exec_wrongPhase {i : Instr} {s : State} (hc : commandFields? i = none) (hp : s.ph ∉ issuingPhases i) :
    exec i s = .fault .wrongPhase := by
  cases i
  case init | writeByte | writeBytes | readByte | readBytes => cases hc
  case send =>
    have hs : s.ph.isSend = false := by cases h : s.ph <;> simp [h, issuingPhases, Phase.isSend] at hp ⊢
    simp [exec, execSend, hs]
  all_goals
    simp only [issuingPhases, List.mem_cons, List.not_mem_nil, or_false] at hp
    exact if_neg hp

theorem exec_enable_noMicroStep {s : State} (hp : s.ph = .init) (hm : s.ms ≠ .issue) :
    exec .enable s = .fault .noMicroStep := by
  cases h : s.ms <;> simp_all [exec, execEnable]

/-- At a micro-step its phase does not have, an action stops: a bus phase lacks at most `LOAD` and `FETCH`. -/
theorem exec_noMicroStep {i : Instr} {s : State} (hp : s.ph ∈ issuingPhases i)
    (hl : legalMicroStep s.ph s.ms = false) : exec i s = .fault .noMicroStep := by
  by_cases hi : i = .enable
  · subst hi
    have hinit : s.ph = .init := by simpa [issuingPhases] using hp
    exact exec_enable_noMicroStep hinit fun hm => by simp [hinit, hm, legalMicroStep] at hl
  · obtain ⟨hb, e, he⟩ := phaseInstr_of_mem_issuingPhases hp hi
    obtain ⟨hload, hissue, hpoll, hfetch⟩ := legalMicroStep_bus hb
    rw [exec_phaseInstr he hb]
    cases hm : s.ms <;> rw [hm] at hl
    · simp [← hload, hl]
    · simp [hissue] at hl
    · simp [hpoll] at hl
    · simp [← hfetch, hl]

/-- Settles O25: `BUSY` stops a command, the phase state or the micro-step an action. -/
theorem instructionsStopElsewhere : Obligations.InstructionsStopElsewhere := by
  unfold Obligations.InstructionsStopElsewhere
  refine fun i s => ⟨fun ⟨f, hf⟩ hp => exec_command_of_busy hf hp, exec_wrongPhase, fun _ => exec_noMicroStep, ?_⟩
  rintro rfl hp hm
  exact exec_enable_noMicroStep hp (by simp [hm])

/-- Settles O42: while busy the register decides, `CMD` for a write and the window for either. -/
theorem busyHostAccessStopsExactlyWhereForbidden : Obligations.BusyHostAccessStopsExactlyWhereForbidden := by
  unfold Obligations.BusyHostAccessStopsExactlyWhereForbidden
  intro s a hp
  have hbusy := busy_eq_true hp
  cases a with
  | read a =>
    simp only [forbiddenWhileBusy, hostAccess, hostRead]
    cases hostReg a
    case bufw i => simp [hbusy]
    all_goals exact ⟨nofun, fun _ => ⟨_, rfl⟩⟩
  | write a w =>
    simp only [forbiddenWhileBusy, hostAccess, hostWrite]
    cases hostReg a
    case cmd => simp [writeCmd, hbusy]
    case bufw i => simp [hbusy]
    all_goals exact ⟨nofun, fun _ => ⟨s.hrdata, rfl⟩⟩

end Sys2Proof.Machine

namespace Sys2Proof.Machine

/-! ### The end of a phase (42_transactions.md R195) -/

@[simp] theorem facRead_cnt (r : FacReg) (s : State) : (facRead r s).cnt = s.cnt := rfl

/-- A poll of a condition or send phase that sees `DONE` = 1 asks `phase_done()`. -/
theorem poll_asksPhaseDone {s : State} (hd : doneFlag (facAnswer s) = true) (hr : s.ph.isReceive = false) :
    poll s = phaseDone (facRead .stat s) := by
  simp [poll, hd, pollDone, hr]

section
variable {s : State} {q : Phase}

/-! The rows of R195 in which the command decides the successor. -/

theorem phaseDone_regAddr_writeByte (hp : s.ph = .regAddr) (ho : s.opc = .writeByte) :
    phaseDone s = .next (enter .dataW s) := by
  simp only [phaseDone, hp, ho]

theorem phaseDone_regAddr_writeBytes (hp : s.ph = .regAddr) (ho : s.opc = .writeBytes)
    (hq : (if s.cnt = 0 then .stop else .dataW) = q) : phaseDone s = .next (enter q s) := by
  simp only [phaseDone, hp, ho, ← hq]
  split <;> rfl

theorem phaseDone_regAddr_readByte (hp : s.ph = .regAddr) (ho : s.opc = .readByte) :
    phaseDone s = .next (enter .rstart s) := by
  simp only [phaseDone, hp, ho]

theorem phaseDone_regAddr_readBytes (hp : s.ph = .regAddr) (ho : s.opc = .readBytes)
    (hq : (if s.cnt = 0 ∧ s.params.rd0Full = false then .stop else .rstart) = q) :
    phaseDone s = .next (enter q s) := by
  simp only [phaseDone, hp, ho, ← hq]
  split <;> rfl

theorem phaseDone_dataW_writeByte (hp : s.ph = .dataW) (ho : s.opc = .writeByte) :
    phaseDone s = .next (enter .stop { s with idx := s.idx + 1 }) := by
  simp only [phaseDone, hp, ho]

theorem phaseDone_dataW_writeBytes (hp : s.ph = .dataW) (ho : s.opc = .writeBytes) (hc : s.idx.toNat + 1 ≤ s.cnt)
    (hq : (if s.idx.toNat + 1 = s.cnt then .stop else .dataW) = q) :
    phaseDone s = .next (enter q { s with idx := s.idx + 1 }) := by
  simp only [phaseDone, hp, ho, ← hq]
  by_cases hlast : s.idx.toNat + 1 = s.cnt
  · simp only [if_pos hlast]
  · simp only [if_neg hlast, if_pos (Nat.lt_of_le_of_ne hc hlast)]

theorem phaseDone_rstart (hp : s.ph = .rstart) (ho : s.opc = .readByte ∨ s.opc = .readBytes) :
    phaseDone s = .next (enter .addrR s) := by
  rcases ho with ho | ho <;> simp only [phaseDone, hp, ho]

theorem phaseDone_addrR_readByte (hp : s.ph = .addrR) (ho : s.opc = .readByte) :
    phaseDone s = .next (enter .dataRNack s) := by
  simp only [phaseDone, hp, ho]

theorem phaseDone_addrR_readBytes (hp : s.ph = .addrR) (ho : s.opc = .readBytes)
    (hq : (if s.cnt = 0 then .stop else if s.cnt = 1 then .dataRNack else .dataRAck) = q) :
    phaseDone s = .next (enter q s) := by
  simp only [phaseDone, hp, ho, ← hq]
  repeat' split
  all_goals rfl

end

/-- Settles O23: each row names its phase's instruction, whose `POLL` asks `phase_done()`, and is a row of it. -/
theorem phaseSuccessors : Obligations.PhaseSuccessors := by
  unfold Obligations.PhaseSuccessors
  intro s e i t hm hd hrow
  have hinstr : phaseInstr? s.ph e = some i ∧ s.ph.isBus = true ∧ s.ph.isReceive = false := by
    rcases hrow with ⟨hp, rfl, -⟩ | ⟨hp, rfl, -⟩ | ⟨hp, rfl, -⟩ | ⟨hp, rfl, -⟩ | ⟨hp, rfl, -⟩ | ⟨hp, rfl, -⟩ |
      ⟨hp, rfl, -⟩ | ⟨hp, rfl, -⟩ <;> rw [hp] <;> exact ⟨rfl, rfl, rfl⟩
  have hdone : phaseDone (facRead .stat s) = .next t := by
    rcases hrow with ⟨hp, -, rfl⟩ | ⟨hp, -, rfl⟩ | ⟨hp, -, hrow⟩ | ⟨hp, -, hrow⟩ | ⟨hp, -, ho, rfl⟩ | ⟨hp, -, hrow⟩ |
      ⟨hp, -, rfl⟩ | ⟨hp, -, rfl⟩
    iterate 2 · simp only [phaseDone, facRead_ph, hp]; rfl
    · rcases hrow with ⟨ho, rfl⟩ | ⟨ho, hc, rfl⟩ | ⟨ho, hc, rfl⟩ | ⟨ho, rfl⟩ | ⟨ho, hc, hfull, rfl⟩ | ⟨ho, hc, rfl⟩
      · exact phaseDone_regAddr_writeByte hp ho
      · exact phaseDone_regAddr_writeBytes hp ho (if_pos hc)
      · exact phaseDone_regAddr_writeBytes hp ho (if_neg (Nat.one_le_iff_ne_zero.mp hc))
      · exact phaseDone_regAddr_readByte hp ho
      · exact phaseDone_regAddr_readBytes hp ho (if_pos ⟨hc, hfull⟩)
      · refine phaseDone_regAddr_readBytes hp ho (if_neg ?_)
        rintro ⟨hzero, hshort⟩
        rw [facRead_cnt] at hzero
        rw [facRead_params] at hshort
        simp [hzero, hshort] at hc
    · rcases hrow with ⟨ho, rfl⟩ | ⟨ho, hc, rfl⟩ | ⟨ho, hc, rfl⟩
      · exact phaseDone_dataW_writeByte hp ho
      · exact phaseDone_dataW_writeBytes hp ho hc.le (if_pos hc)
      · exact phaseDone_dataW_writeBytes hp ho hc.le (if_neg hc.ne)
    · exact phaseDone_rstart hp ho
    · rcases hrow with ⟨ho, rfl⟩ | ⟨ho, hc, rfl⟩ | ⟨ho, hc, rfl⟩ | ⟨ho, hc, rfl⟩
      · exact phaseDone_addrR_readByte hp ho
      · exact phaseDone_addrR_readBytes hp ho (if_pos hc)
      · exact phaseDone_addrR_readBytes hp ho ((if_neg (hc ▸ Nat.one_ne_zero)).trans (if_pos hc))
      · exact phaseDone_addrR_readBytes hp ho
          ((if_neg (Nat.ne_of_gt (Nat.lt_of_succ_lt hc))).trans (if_neg (Nat.ne_of_gt hc)))
    iterate 2 · simp only [phaseDone, facRead_ph, hp]; rfl
  obtain ⟨hi, hb, hr⟩ := hinstr
  rw [exec_phaseInstr_poll hi hb hm, poll_asksPhaseDone hd hr, hdone]

/-! ### Only the spec's faults (42_transactions.md R193, 70_reset_and_hazards.md R266 to R268) -/

/-- In a legal position `LOAD` has a byte to send, or the cell of a `WRITE_BYTES` has no value. -/
theorem loadByte_total {s : State} (hs : s.ph.isSend = true) (hpos : legalPosition s) :
    (∃ t, loadByte s = .next t) ∨
    (loadByte s = .fault .bufUninit ∧ s.ph = .dataW ∧ s.opc = .writeBytes ∧ Memory.read s.buf s.idx.toNat = none) := by
  unfold loadByte
  cases hp : s.ph <;> simp [hp, Phase.isSend] at hs
  case dataW =>
    simp only [legalPosition, hp] at hpos
    rcases hpos with ⟨ho | ho, -⟩
    · exact .inl ⟨_, by simp only [sendByte, hp, ho]; rfl⟩
    · rw [sendByte_writeBytes hp ho]
      cases hr : Memory.read s.buf s.idx.toNat
      · exact .inr ⟨rfl, rfl, ho, rfl⟩
      · exact .inl ⟨_, rfl⟩
  all_goals exact .inl ⟨_, by simp only [sendByte, hp]; rfl⟩

/-- In a legal position a poll always answers. -/
theorem poll_total {s : State} (hb : s.ph.isBus = true) (hpos : legalPosition s) : ∃ t, poll s = .next t := by
  cases hd : doneFlag (facAnswer s) with
  | false => exact ⟨_, by simp only [poll, hd]; rfl⟩
  | true =>
    cases hr : s.ph.isReceive with
    | true => exact ⟨_, poll_receives hd hr⟩
    | false =>
      rw [poll_asksPhaseDone hd hr]
      refine phaseDone_total (s := facRead .stat s) hpos ?_
      cases hp : s.ph <;> simp [hp, Phase.isBus, Phase.isReceive, Phase.isCondition, Phase.isSend] at hb hr ⊢

/-- Under the invariant a turn of the sequencer answers, or is the `LOAD` of a cell without a value. -/
theorem Inv.sequencerStep_total {s : State} (h : Inv s) :
    (∃ t, Machine.sequencerStep s = .next t) ∨
    (Machine.sequencerStep s = .fault .bufUninit ∧ s.ph = .dataW ∧ s.ms = .load ∧ s.opc = .writeBytes ∧
      Memory.read s.buf s.idx.toNat = none) := by
  have hl := h.microStep
  by_cases hb : s.ph.isBus = true
  · obtain ⟨hload, -, -, hfetch⟩ := legalMicroStep_bus hb
    rw [sequencerStep_bus hb]
    cases hm : s.ms <;> rw [hm] at hl
    case load =>
      have hs : s.ph.isSend = true := hload ▸ hl
      simp only [hs, if_true]
      exact (loadByte_total hs h.position).imp_right fun ⟨he, hp, ho, hr⟩ => ⟨he, hp, trivial, ho, hr⟩
    case issue => exact .inl ⟨_, rfl⟩
    case poll => exact .inl (poll_total hb h.position)
    case fetch => exact .inl ⟨_, if_pos (hfetch ▸ hl)⟩
  · left
    by_cases hp : s.ph = .idle
    · exact ⟨s, sequencerStep_idle hp⟩
    · have hinit : s.ph = .init := by simpa [Phase.isBus, hp] using hb
      by_cases hm : s.ms = .load
      · exact ⟨_, sequencerStep_init_load ⟨hinit, hm⟩⟩
      · have hissue : s.ms = .issue := by cases hms : s.ms <;> simp [hinit, hms, legalMicroStep] at hl hm ⊢
        rw [sequencerStep_of_phaseInstr (i := .enable) (by simp [hinit, phaseInstr?]) (by simp [hm])]
        exact ⟨_, exec_enable_of_init hinit hissue⟩

/-- While idle every host access answers. -/
theorem hostAccess_total_of_idle {s : State} (hp : s.ph = .idle) (a : HostAccess) : ∃ t, hostAccess a s = .next t := by
  cases a with
  | read a =>
    simp only [hostAccess, hostRead, busy_eq_false hp]
    cases hostReg a <;> exact ⟨_, rfl⟩
  | write a w =>
    cases ha : hostReg a
    case cmd =>
      rw [hostReg_eq_cmd ha]
      cases hd : decodeCommand w with
      | ok i =>
        obtain ⟨⟨o, d, r, x⟩, hf⟩ := decodeCommand_fields hd
        exact ⟨_, (hostAccess_writeCmd hp hd).trans (exec_command_of_idle hf hp)⟩
      | error e => exact ⟨_, hostAccess_writeCmd_of_reserved hp hd⟩
    all_goals
      simp only [hostAccess, hostWrite, ha, busy_eq_false hp]
      exact ⟨_, rfl⟩

/-- A host access answers, or is one forbidden while busy. -/
theorem hostAccess_total (a : HostAccess) (s : State) :
    (∃ t, hostAccess a s = .next t) ∨
    (hostAccess a s = .fault .hostReentry ∧ s.ph ≠ .idle ∧ forbiddenWhileBusy a = true) := by
  by_cases hp : s.ph = .idle
  · exact .inl (hostAccess_total_of_idle hp a)
  · obtain ⟨hstop, hanswer⟩ := busyHostAccessStopsExactlyWhereForbidden s a hp
    cases hf : forbiddenWhileBusy a with
    | true => exact .inr ⟨hstop hf, hp, rfl⟩
    | false => exact .inl ⟨_, (hanswer hf).choose_spec⟩

/-- Under the invariant a step answers, or is one of the two faults of the spec. -/
theorem Inv.step_total {s : State} (h : Inv s) :
    (∃ t, step s = .next t) ∨
    (step s = .fault .hostReentry ∧ s.ph ≠ .idle ∧ ∃ a l, s.inputs = .host a :: l ∧ forbiddenWhileBusy a = true) ∨
    (step s = .fault .bufUninit ∧ s.ph = .dataW ∧ s.ms = .load ∧ s.opc = .writeBytes ∧
      Memory.read s.buf s.idx.toNat = none) := by
  rcases hin : s.inputs with _ | ⟨_ | _ | _, l⟩
  · rw [step_of_no_inputs hin]
    exact h.sequencerStep_total.imp_right .inr
  case host a =>
    rw [step_of_host hin]
    exact (hostAccess_total a { s with inputs := l }).imp_right fun ⟨he, hp, hf⟩ => .inl ⟨he, hp, a, l, rfl, hf⟩
  case tick =>
    rw [step_of_tick hin]
    exact (h.setInputs l).sequencerStep_total.imp_right .inr
  case rst a => exact .inl ⟨_, by simp only [step, hin]; rfl⟩

/-- Settles O41: a step that does not answer is one of the two faults. -/
theorem onlyTheSpecsFaultsOccur : Obligations.OnlyTheSpecsFaultsOccur := by
  unfold Obligations.OnlyTheSpecsFaultsOccur
  intro s h
  rcases h.step_total with ⟨t, e⟩ | ⟨e, hfault⟩ | ⟨e, hfault⟩ <;> rw [e]
  · exact ⟨nofun, nofun⟩
  · refine ⟨nofun, fun f hf => ?_⟩
    cases hf
    exact .inl ⟨rfl, hfault⟩
  · refine ⟨nofun, fun f hf => ?_⟩
    cases hf
    exact .inr ⟨rfl, hfault⟩

/-! ### The end of a transaction (42_transactions.md R205) -/

theorem phaseDone_to_idle {s t : State} (h : phaseDone s = .next t) (hi : t.ph = .idle) :
    s.ph = .stop ∨ s.ph = .aborted := by
  rcases phaseDone_cases h with ⟨_, rfl⟩ | ⟨_, rfl⟩ | ⟨_, _, rfl⟩ | ⟨_, _, _, rfl⟩ | ⟨_, _, _, rfl⟩ | ⟨_, _, rfl⟩ |
    ⟨_, _, _, rfl⟩ | ⟨_, _, _, rfl⟩ | ⟨_, _, rfl⟩ | ⟨_, _, _, rfl⟩ | ⟨_, _, _, rfl⟩ | ⟨_, _, rfl⟩ | ⟨_, _, rfl⟩ |
    ⟨_, _, _, rfl⟩ | ⟨_, _, _, rfl⟩ | ⟨_, _, _, rfl⟩ | ⟨hp, rfl⟩ | ⟨hp, rfl⟩
  iterate 16 · cases hi
  · exact .inl hp
  · exact .inr hp

/-- A bus phase returns to `IDLE` by a poll of one of the two phases that issue a stop. -/
theorem sequencerStep_bus_to_idle {s t : State} (h : sequencerStep s = .next t) (hb : s.ph.isBus = true)
    (hi : t.ph = .idle) : s.ms = .poll ∧ (s.ph = .stop ∨ s.ph = .aborted) := by
  have hne := Phase.ne_idle_of_isBus hb
  rcases sequencerStep_cases h with ⟨hp, -⟩ | ⟨hp, -⟩ | ⟨hp, -⟩ | ⟨-, -, hl⟩ | ⟨-, -, rfl⟩ | ⟨-, hm, hl⟩ | ⟨hp, -, rfl⟩
  · exact absurd hp hne
  iterate 2 · rw [hp] at hb; cases hb
  · obtain ⟨b, -, rfl⟩ := loadByte_cases hl
    exact absurd hi hne
  · exact absurd hi hne
  · refine ⟨hm, ?_⟩
    rcases poll_cases hl with ⟨-, -, rfl⟩ | ⟨-, -, hd⟩ | ⟨-, rfl⟩
    · exact absurd hi hne
    · exact (phaseDone_to_idle hd hi :)
    · rcases pollNotDone_cases (facRead .stat s) with ⟨-, e⟩ | ⟨-, hp, -⟩ | ⟨-, -, e⟩
      · rw [e] at hi; exact absurd hi hne
      · exact .inr hp
      · rw [e] at hi; cases hi
  · rw [fetch, enter_ph, afterReceive_of_isReceive hp] at hi
    repeat' split at hi
    all_goals cases hi

/-- Under the invariant the stop word is on record when a bus phase returns to `IDLE`. -/
theorem Inv.lastCtrl_of_bus_to_idle {s t : State} (h : Inv s) (hb : s.ph.isBus = true) (hi : t.ph = .idle)
    (hs : Machine.sequencerStep s = .next t) : lastCtrl t.history = some (controlWord stopBits s.en) := by
  obtain ⟨hm, hp⟩ := sequencerStep_bus_to_idle hs hb hi
  rcases sequencerStep_access hs (Phase.ne_idle_of_isBus hb) with ⟨_, hm', -⟩ | ⟨_, hm', -⟩ | ⟨v, -, -, e⟩ |
    ⟨_, hm', -⟩ | ⟨hm', -⟩
  case inr.inr.inl => rw [e]; exact h.stopWritten hp hm
  all_goals rw [hm] at hm'; cases hm'

/-- No host access takes `PH` to `IDLE`. -/
theorem hostAccess_ph {a : HostAccess} {s t : State} (h : hostAccess a s = .next t) (hp : s.ph ≠ .idle) :
    t.ph = s.ph := by
  rcases hostAccess_cases h with ⟨w, n, rfl⟩ | ⟨i, v, hi, -⟩ | ⟨hi, -⟩ | ⟨i, o, d, r, x, -, hi, -⟩
  · rfl
  all_goals exact absurd hi hp

/-- Settles O43: only the sequencer and a reset return to `IDLE`. -/
theorem transactionsAlwaysEndWithStop : Obligations.TransactionsAlwaysEndWithStop := by
  unfold Obligations.TransactionsAlwaysEndWithStop
  intro s t hinv hb hi h
  rcases step_cases h with ⟨-, hs⟩ | ⟨l, -, hs⟩ | ⟨a, l, -, hs⟩ | ⟨a, l, hin, -⟩
  · exact .inr (hinv.lastCtrl_of_bus_to_idle hb hi hs)
  · exact .inr ((hinv.setInputs l).lastCtrl_of_bus_to_idle hb hi hs :)
  · have hne := Phase.ne_idle_of_isBus hb
    exact absurd ((hostAccess_ph hs hne).symm.trans hi) hne
  · exact .inl ⟨a, l, hin⟩

/-! ### Where received bytes go (42_transactions.md R203, 10_state.md R35) -/

/-- A turn of the sequencer leaves `RDATA` and `BUF`, or is a `FETCH`. -/
theorem sequencerStep_data {s t : State} (h : sequencerStep s = .next t) :
    (t.rdata = s.rdata ∧ t.buf = s.buf) ∨ (s.ph.isReceive = true ∧ s.ms = .fetch ∧ t = fetch s) := by
  rcases sequencerStep_cases h with ⟨-, rfl⟩ | ⟨-, -, rfl⟩ | ⟨-, -, rfl⟩ | ⟨-, -, hl⟩ | ⟨-, -, rfl⟩ | ⟨-, -, hl⟩ | hf
  iterate 3 · exact .inl ⟨rfl, rfl⟩
  · obtain ⟨b, -, rfl⟩ := loadByte_cases hl
    exact .inl ⟨rfl, rfl⟩
  · exact .inl ⟨rfl, rfl⟩
  · obtain ⟨-, hrdata, hbuf, -⟩ := poll_frame hl
    exact .inl ⟨hrdata, hbuf⟩
  · exact .inr hf

/-- In a legal position a receive phase is `DATA_R_NACK` of a `READ_BYTE`, or either one of a `READ_BYTES`. -/
theorem receive_command {s : State} (hr : s.ph.isReceive = true) (hpos : legalPosition s) :
    (s.ph = .dataRNack ∧ s.opc = .readByte) ∨ ((s.ph = .dataRAck ∨ s.ph = .dataRNack) ∧ s.opc = .readBytes) := by
  cases hp : s.ph <;> simp [hp, Phase.isReceive] at hr <;> simp only [legalPosition, hp] at hpos
  · exact .inr ⟨.inl rfl, hpos.1⟩
  · cases ho : s.opc <;> simp [ho, Opcode.isRead] at hpos ⊢

/-- Under the invariant the sequencer writes `RDATA` and `BUF` only where the command wants the byte. -/
theorem Inv.sequencerStep_data {s t : State} (h : Inv s) (hs : Machine.sequencerStep s = .next t) :
    (t.rdata ≠ s.rdata → s.ms = .fetch ∧ s.ph = .dataRNack ∧ s.opc = .readByte) ∧
    (t.buf ≠ s.buf → s.ms = .fetch ∧ (s.ph = .dataRAck ∨ s.ph = .dataRNack) ∧ s.opc = .readBytes ∧
      ∀ a, a ≠ s.idx.toNat → Memory.read t.buf a = Memory.read s.buf a) := by
  rcases Machine.sequencerStep_data hs with ⟨hrdata, hbuf⟩ | ⟨hr, hm, rfl⟩
  · exact ⟨fun hn => absurd hrdata hn, fun hn => absurd hbuf hn⟩
  · obtain ⟨-, -, -, hbyte, hbytes⟩ := fetch_frame s
    rcases receive_command hr h.position with ⟨hp, ho⟩ | ⟨hp, ho⟩
    · exact ⟨fun _ => ⟨hm, hp, ho⟩, fun hn => absurd (hbyte ho) hn⟩
    · obtain ⟨hrdata, hbuf⟩ := hbytes (by simp [ho])
      refine ⟨fun hn => absurd hrdata hn, fun _ => ⟨hm, hp, ho, fun a ha => ?_⟩⟩
      rw [hbuf, Memory.read_write_other _ _ ha]

theorem hostAccess_rdata {a : HostAccess} {s t : State} (h : hostAccess a s = .next t) : t.rdata = s.rdata := by
  rcases hostAccess_cases h with ⟨w, n, rfl⟩ | ⟨i, v, -, rfl⟩ | ⟨-, rfl⟩ | ⟨i, o, d, r, x, -, -, rfl⟩ <;> rfl

/-- Settles O47: `FETCH` alone stores a received byte, and the invariant says for which command. -/
theorem readDataGoesWhereItBelongs : Obligations.ReadDataGoesWhereItBelongs := by
  unfold Obligations.ReadDataGoesWhereItBelongs
  intro s t hinv h hno
  rcases step_cases h with ⟨-, hs⟩ | ⟨l, -, hs⟩ | ⟨a, l, hin, hs⟩ | ⟨a, l, hin, -⟩
  · obtain ⟨hrdata, hbuf⟩ := hinv.sequencerStep_data hs
    exact ⟨hrdata, fun _ => hbuf⟩
  · obtain ⟨hrdata, hbuf⟩ := (hinv.setInputs l).sequencerStep_data hs
    exact ⟨hrdata, fun _ => hbuf⟩
  · exact ⟨fun hn => absurd (hostAccess_rdata hs) hn, fun hnh => absurd hin (hnh a l)⟩
  · exact absurd hin (hno a l)

/-- An instruction leaves `BUF`, or is a `FETCH`. -/
theorem exec_buf {i : Instr} {s t : State} (h : exec i s = .next t) :
    t.buf = s.buf ∨ (s.ms = .fetch ∧ t = fetch s) := by
  rcases hc : commandFields? i with _ | ⟨o, d, r, a⟩
  · rcases exec_action_cases hc h with ⟨-, -, rfl⟩ | ⟨-, -, hl⟩ | ⟨-, -, be, rfl⟩ | ⟨-, -, hl⟩ | ⟨-, hf⟩
    · exact .inl rfl
    · obtain ⟨b, -, rfl⟩ := loadByte_cases hl
      exact .inl rfl
    · exact .inl rfl
    · obtain ⟨-, -, hbuf, -⟩ := poll_frame hl
      exact .inl hbuf
    · exact .inr hf
  · obtain ⟨-, rfl⟩ := exec_command_next hc h
    exact .inl rfl

/-- Settles O49: of the micro-steps only `FETCH` stores, and a command stores nothing. -/
theorem instructionsLeaveMemory : Obligations.InstructionsLeaveMemory := by
  unfold Obligations.InstructionsLeaveMemory
  intro i s t h
  rcases exec_buf h with hbuf | ⟨hm, rfl⟩
  · rw [hbuf]
    exact ⟨fun _ _ => rfl, fun _ _ _ => rfl⟩
  · obtain ⟨-, -, -, hbyte, hbytes⟩ := fetch_frame s
    refine ⟨fun hn => absurd hm hn, fun _ a ha => ?_⟩
    by_cases ho : s.opc = .readByte
    · rw [hbyte ho]
    · rw [(hbytes ho).2, Memory.read_write_other _ _ (ha.resolve_right ho)]

end Sys2Proof.Machine

namespace Sys2Proof.Machine

/-! ### Whole transactions on a prompt facade (42_transactions.md R196 to R203, R210) -/

/-- Settles O29: `stepN_writeByte` from an idle state. -/
theorem writeByteRunsToSuccess : Obligations.WriteByteRunsToSuccess := by
  unfold Obligations.WriteByteRunsToSuccess
  intro s dev reg data p₁ p₂ p₃ p₄ p₅ rest hp hi ha hd
  refine ⟨_, exec_command_of_idle rfl hp, ?_⟩
  rw [stepN_writeByte hi ha hd, ← hp]; rfl

/-- Settles O31: `stepN_readByte` from an idle state. -/
theorem readByteRunsToSuccess : Obligations.ReadByteRunsToSuccess := by
  unfold Obligations.ReadByteRunsToSuccess
  intro s dev reg d p₁ p₂ p₃ p₄ p₅ p₆ p₇ rest hp hi ha hd
  refine ⟨_, exec_command_of_idle rfl hp, ?_⟩
  rw [stepN_readByte hi ha hd, ← hp]; rfl

/-- The accesses of `START`, `ADDR_W` and `REG_ADDR`, with which every transaction begins; newest first. -/
def registerTrace (e : Bool) (dev : DevAddr) (reg p₁ p₂ p₃ : Byte) : List FacAccess :=
  sendTrace reg (controlWord sendBits e) p₃ ++ sendTrace (addressByte dev false) (controlWord sendBits e) p₂ ++
    conditionTrace (controlWord startBits e) p₁

/-- The first three phases of a transaction take 8 micro-steps, and lead where the row of `REG_ADDR` says. -/
theorem stepN_registerSent {s : State} {o : Opcode} {dev : DevAddr} {reg a p₁ p₂ p₃ : Byte} {l : List Byte} {q : Phase}
    (ho : o ≠ .init) (hi : s.inputs = []) (ha : s.answers = [p₁, p₂, p₃] ++ l) (hd : allDone [p₁, p₂, p₃])
    (hq : ∀ u : State, u.ph = .regAddr → u.opc = o → u.arg = a → u.params = s.params →
      phaseDone u = .next (enter q u)) :
    ∃ f, stepN 8 (acceptCommand o dev reg a s) =
      .next (midTransaction (acceptCommand o dev reg a s) q 0 f (registerTrace s.en dev reg p₁ p₂ p₃) l) := by
  simp only [allDone, List.forall_mem_cons] at hd
  obtain ⟨hd₁, hd₂, hd₃, -⟩ := hd
  have addrW := stepN_start (o := o) (d := dev) (r := reg) (a := a) ho hi ha hd₁
  have regAddr := stepN_trans addrW (stepN_midTransaction_send (q := .regAddr) (j' := 0) rfl hi hd₂ rfl rfl)
  exact ⟨_, stepN_trans regAddr (stepN_midTransaction_send (j' := 0) rfl hi hd₃ rfl (hq _ rfl rfl rfl rfl))⟩

section
variable {s : State} {p q : Phase} {j b d v : Byte} {f : Facade} {h : List FacAccess} {l : List Byte}

/-- The repeated start inside a read transaction. -/
theorem stepN_midTransaction_rstart (ho : s.opc = .readByte ∨ s.opc = .readBytes) (hi : s.inputs = [])
    (hd : doneFlag v = true) :
    stepN 2 (midTransaction s .rstart j f h (v :: l)) = .next (midTransaction s .addrR j
      { f with ctrl := controlWord startBits s.en, stat := v }
      (conditionTrace (controlWord startBits s.en) v ++ h) l) :=
  stepN_condition rfl rfl hi rfl hd (phaseDone_rstart rfl ho)

/-- The stop ends the transaction (R209). -/
theorem stepN_midTransaction_stop (hi : s.inputs = []) (hd : doneFlag v = true) :
    stepN 2 (midTransaction s .stop j f h (v :: l)) = .next (finish .success (midTransaction s .stop j
      { f with ctrl := controlWord stopBits s.en, stat := v }
      (conditionTrace (controlWord stopBits s.en) v ++ h) l)) :=
  stepN_condition rfl rfl hi rfl hd rfl

/-- A data phase of a `WRITE_BYTES`: the cell that `IDX` names is sent. -/
theorem stepN_midTransaction_dataW (ho : s.opc = .writeBytes) (hi : s.inputs = []) (hd : doneFlag v = true)
    (hb : Memory.read s.buf j.toNat = some b) (hc : j.toNat + 1 ≤ s.cnt)
    (hq : (if j.toNat + 1 = s.cnt then .stop else .dataW) = q) :
    stepN 3 (midTransaction s .dataW j f h (v :: l)) = .next (midTransaction s q (j + 1)
      { f with ctrl := controlWord sendBits s.en, stat := v, data := b }
      (sendTrace b (controlWord sendBits s.en) v ++ h) l) := by
  have hbyte : sendByte (midTransaction s .dataW j f h (v :: l)) = .ok b := by
    rw [sendByte_writeBytes (s := midTransaction s .dataW j f h (v :: l)) rfl ho]
    change (Memory.read s.buf j.toNat).elim _ _ = _
    rw [hb]; rfl
  exact stepN_midTransaction_send rfl hi hd hbyte (phaseDone_dataW_writeBytes rfl ho hc hq)

/-- A receive phase inside a `READ_BYTES`: its byte goes to `BUF[IDX]`. -/
theorem stepN_midTransaction_receive (hk : p.isReceive = true) (ho : s.opc = .readBytes) (hi : s.inputs = [])
    (hd : doneFlag v = true)
    (hq : (if p = .dataRAck then if (j + 1).toNat + 1 = s.cnt then .dataRNack else .dataRAck else .stop) = q) :
    stepN 3 (midTransaction s p j f h (v :: b :: l)) =
      .next (midTransaction { s with buf := Memory.write s.buf j.toNat b } q (j + 1)
        { f with ctrl := controlWord p.word s.en, stat := v, data := b }
        (receiveTrace (controlWord p.word s.en) v b ++ h) l) := by
  have hm : firstMicroStep p = .issue := by cases p <;> simp [Phase.isReceive] at hk <;> rfl
  have hmq : firstMicroStep q = .issue := by
    rw [← hq]
    repeat' split
    all_goals rfl
  have hnext : afterReceive ((midTransaction s p j f h (v :: b :: l)).idx + 1)
      (midTransaction s p j f h (v :: b :: l)) = q := hq
  rw [stepN_receive (s := midTransaction s p j f h (v :: b :: l)) hk hm hi rfl hd, hnext]
  simp [midTransaction, ho, hmq]

/-- Below the count `IDX + 1` does not wrap. -/
theorem toNat_succ_of_add_succ {j a : Byte} {n : Nat} (hc : j.toNat + (n + 1) = a.toNat) :
    (j + 1).toNat = j.toNat + 1 ∧ (j + 1).toNat + n = a.toNat := by
  bv_omega

end

section
variable {s : State} {j : Byte} {f : Facade} {h : List FacAccess} {l : List (Byte × Byte)} {rest : List Byte}

/-- The data phases of a `WRITE_BYTES` (R202): each sends the cell that `IDX` names, and the last leads to the stop. -/
theorem stepN_sends (ho : s.opc = .writeBytes) (hi : s.inputs = []) (hne : l ≠ [])
    (hc : j.toNat + l.length = s.arg.toNat)
    (hcells : ∀ k, k < l.length → Memory.read s.buf (j.toNat + k) = (l[k]?).map Prod.fst)
    (hd : allDone (l.map Prod.snd)) :
    ∃ f', stepN (3 * l.length) (midTransaction s .dataW j f h (l.map Prod.snd ++ rest)) =
      .next (midTransaction s .stop s.arg f' (sendsTrace (controlWord sendBits s.en) l ++ h) rest) := by
  induction l generalizing j f h with
  | nil => exact absurd rfl hne
  | cons c l ih =>
    obtain ⟨b, v⟩ := c
    obtain ⟨hv, hl⟩ : doneFlag v = true ∧ allDone (l.map Prod.snd) := List.forall_mem_cons.mp hd
    obtain ⟨hj, hc'⟩ : (j + 1).toNat = j.toNat + 1 ∧ (j + 1).toNat + l.length = s.arg.toNat := toNat_succ_of_add_succ hc
    have hcell : Memory.read s.buf j.toNat = some b := hcells 0 (Nat.zero_lt_succ _)
    have hmore : j.toNat + 1 ≤ s.cnt := by rw [State.cnt, ← hc', hj]; exact Nat.le_add_right ..
    have phase {q : Phase} := stepN_midTransaction_dataW (q := q) (f := f) (h := h) (l := l.map Prod.snd ++ rest)
      ho hi hv hcell hmore
    simp only [sendsTrace, List.append_assoc]
    cases l with
    | nil =>
      have hlast : j + 1 = s.arg := BitVec.eq_of_toNat_eq hc'
      rw [← hlast]
      exact ⟨_, phase (if_pos (hj.symm.trans hc'))⟩
    | cons c' l =>
      have hnext : j.toNat + 1 ≠ s.cnt := by
        rw [List.length_cons] at hc'
        rw [State.cnt]; omega
      have hcells' (k : ℕ) (hk : k < (c' :: l).length) := hcells (k + 1) (Nat.succ_lt_succ hk)
      obtain ⟨f', run⟩ := ih (j := j + 1) (List.cons_ne_nil c' l) hc'
        (fun k hk => by rw [hj, Nat.add_right_comm]; exact hcells' k hk) hl
      refine ⟨f', ?_⟩
      rw [List.length_cons, Nat.mul_succ, Nat.add_comm]
      exact stepN_trans (phase (if_neg hnext)) run

end

/-- The buffer after the bytes `l` have been stored from cell `i` on. -/
def storeBytes (m : Memory) (i : Nat) : List Byte → Memory
  | [] => m
  | b :: l => storeBytes (Memory.write m i b) (i + 1) l

/-- The stored cells hold their bytes, and no other cell changes. -/
theorem read_storeBytes (m : Memory) (i : Nat) (l : List Byte) (k : Nat) :
    Memory.read (storeBytes m i l) k = if i ≤ k ∧ k < i + l.length then l[k - i]? else Memory.read m k := by
  induction l generalizing m i with
  | nil => simp only [storeBytes, List.length_nil]; rw [if_neg (by omega)]
  | cons b l ih =>
    rw [storeBytes, ih, Memory.read_write, List.length_cons]
    rcases Nat.lt_trichotomy k i with hlt | rfl | hgt
    · rw [if_neg (by omega), if_neg (by omega), if_neg (by omega)]
    · rw [if_neg (by omega), if_pos rfl, if_pos (by omega), Nat.sub_self]; rfl
    · have hsub : k - i = (k - (i + 1)) + 1 := by omega
      rw [if_neg (Nat.ne_of_gt hgt), hsub, List.getElem?_cons_succ]
      by_cases hin : k < i + (l.length + 1)
      · rw [if_pos (by omega), if_pos (by omega)]
      · rw [if_neg (by omega), if_neg (by omega)]

theorem receivesTrace_cons (w₁ w₂ : Byte) (c : Byte × Byte) {l : List (Byte × Byte)} (h : l ≠ []) :
    receivesTrace w₁ w₂ (c :: l) = receivesTrace w₁ w₂ l ++ receiveTrace w₁ c.1 c.2 := by
  cases l with
  | nil => exact absurd rfl h
  | cons c' l => rfl

/-- The data phases of a `READ_BYTES` (R200): an ACK phase for each byte but the last, and a NACK phase for that. -/
theorem stepN_receives {s : State} {j : Byte} {f : Facade} {h : List FacAccess} {l : List (Byte × Byte)}
    {rest : List Byte} (ho : s.opc = .readBytes) (hi : s.inputs = []) (hne : l ≠ [])
    (hc : j.toNat + l.length = s.arg.toNat) (hd : allDone (l.map Prod.fst)) :
    ∃ f', stepN (3 * l.length) (midTransaction s (if l.length = 1 then .dataRNack else .dataRAck) j f h
        (receiveAnswers l ++ rest)) =
      .next (midTransaction { s with buf := storeBytes s.buf j.toNat (l.map Prod.snd) } .stop s.arg f'
        (receivesTrace (controlWord recvAckBits s.en) (controlWord recvNackBits s.en) l ++ h) rest) := by
  induction l generalizing s j f h with
  | nil => exact absurd rfl hne
  | cons c l ih =>
    obtain ⟨v, b⟩ := c
    obtain ⟨hv, hl⟩ : doneFlag v = true ∧ allDone (l.map Prod.fst) := List.forall_mem_cons.mp hd
    obtain ⟨hj, hc'⟩ : (j + 1).toNat = j.toNat + 1 ∧ (j + 1).toNat + l.length = s.arg.toNat := toNat_succ_of_add_succ hc
    cases l with
    | nil =>
      have hlast : j + 1 = s.arg := BitVec.eq_of_toNat_eq hc'
      have phase := stepN_midTransaction_receive (p := .dataRNack) (j := j) (f := f) (h := h) (b := b) (l := rest)
        rfl ho hi hv rfl
      rw [hlast] at phase
      exact ⟨_, phase⟩
    | cons c' l =>
      have hphase : (if (j + 1).toNat + 1 = s.cnt then Phase.dataRNack else .dataRAck) =
          if (c' :: l).length = 1 then .dataRNack else .dataRAck := by
        simp only [State.cnt, ← hc', Nat.add_left_cancel_iff, eq_comm]
      have phase := stepN_midTransaction_receive (p := .dataRAck) (f := f) (h := h) (b := b)
        (l := receiveAnswers (c' :: l) ++ rest) rfl ho hi hv ((if_pos rfl).trans hphase)
      obtain ⟨f', run⟩ := ih (s := { s with buf := Memory.write s.buf j.toNat b }) (j := j + 1) ho hi
        (List.cons_ne_nil c' l) hc' hl
      refine ⟨f', ?_⟩
      rw [receivesTrace_cons _ _ _ (List.cons_ne_nil c' l), List.append_assoc, List.length_cons, Nat.mul_succ,
        Nat.add_comm (3 * _)]
      rw [hj] at run
      exact stepN_trans phase run

/-- With a count of 0 all data phases have completed from the start. -/
theorem midTransaction_of_zeroCount {s : State} (hc : s.arg.toNat = 0) {p : Phase} {f : Facade} {h : List FacAccess}
    {l : List Byte} : midTransaction s p 0 f h l = midTransaction s p s.arg f h l := by
  have harg : s.arg = 0 := BitVec.eq_of_toNat_eq hc
  rw [harg]

/-- The data phases of a `WRITE_BYTES` of any count: with a count of 0 there are none, and the stop is next (R201). -/
theorem stepN_dataPhases_writeBytes {s : State} {f : Facade} {h : List FacAccess} {l : List (Byte × Byte)}
    {rest : List Byte} (ho : s.opc = .writeBytes) (hi : s.inputs = []) (hc : l.length = s.arg.toNat)
    (hcells : ∀ k, k < l.length → Memory.read s.buf k = (l[k]?).map Prod.fst) (hd : allDone (l.map Prod.snd)) :
    ∃ f', stepN (3 * l.length) (midTransaction s (if s.cnt = 0 then .stop else .dataW) 0 f h
        (l.map Prod.snd ++ rest)) =
      .next (midTransaction s .stop s.arg f' (sendsTrace (controlWord sendBits s.en) l ++ h) rest) := by
  by_cases hne : l = []
  · subst hne
    rw [if_pos (show s.cnt = 0 from hc.symm)]
    exact ⟨f, congrArg Host.Outcome.next (midTransaction_of_zeroCount hc.symm)⟩
  · rw [if_neg (show s.cnt ≠ 0 from fun hzero => hne (List.length_eq_zero_iff.mp (hc.trans hzero)))]
    exact stepN_sends ho hi hne (by simpa using hc) (by simpa using hcells) hd

/-- The data phases of a `READ_BYTES` of any count, as those of a `WRITE_BYTES`. -/
theorem stepN_dataPhases_readBytes {s : State} {f : Facade} {h : List FacAccess} {l : List (Byte × Byte)}
    {rest : List Byte} (ho : s.opc = .readBytes) (hi : s.inputs = []) (hc : l.length = s.arg.toNat)
    (hd : allDone (l.map Prod.fst)) :
    ∃ f', stepN (3 * l.length) (midTransaction s
        (if s.cnt = 0 then .stop else if s.cnt = 1 then .dataRNack else .dataRAck) 0 f h
        (receiveAnswers l ++ rest)) =
      .next (midTransaction { s with buf := storeBytes s.buf 0 (l.map Prod.snd) } .stop s.arg f'
        (receivesTrace (controlWord recvAckBits s.en) (controlWord recvNackBits s.en) l ++ h) rest) := by
  by_cases hne : l = []
  · subst hne
    rw [if_pos (show s.cnt = 0 from hc.symm)]
    exact ⟨f, congrArg Host.Outcome.next (midTransaction_of_zeroCount hc.symm)⟩
  · rw [if_neg (show s.cnt ≠ 0 from fun hzero => hne (List.length_eq_zero_iff.mp (hc.trans hzero))), State.cnt, ← hc]
    exact stepN_receives (j := 0) ho hi hne (by simpa using hc) hd

/-- The state in which a transaction accepted while idle ends with success, with `m` in the buffer. -/
theorem finish_midTransaction {s : State} (hp : s.ph = .idle) (o : Opcode) (d : DevAddr) (r a j : Byte) (m : Memory)
    (f : Facade) (h : List FacAccess) (l : List Byte) :
    finish .success (midTransaction { acceptCommand o d r a s with buf := m } .stop j f h l) = { s with
      opc := o, dev := d, reg := r, arg := a, ms := .load, idx := j, tcnt := s.params.tmo, own := false
      result := .success, valid := true, cmderr := false, buf := m, answers := l, facade := f
      history := h ++ s.history } := by
  simp [finish, midTransaction, acceptCommand, enter, hp]

/-- Settles O30: the register's phases, one data phase for each cell, and the stop. -/
theorem writeBytesRunsToSuccess : Obligations.WriteBytesRunsToSuccess := by
  unfold Obligations.WriteBytesRunsToSuccess
  intro s dev reg count p₁ p₂ p₃ p₄ l rest hp hi hlen hcells ha hd hdata
  obtain ⟨hd₁₂₃, hd₄⟩ : allDone [p₁, p₂, p₃] ∧ allDone [p₄] := List.forall_mem_append.mp hd
  rw [List.append_assoc] at ha
  obtain ⟨f, register⟩ := stepN_registerSent (o := .writeBytes) (dev := dev) (reg := reg) (a := count)
    (q := if count.toNat = 0 then .stop else .dataW) nofun hi ha hd₁₂₃
    (fun u hu hou hau _ => phaseDone_regAddr_writeBytes hu hou (by rw [State.cnt, hau]))
  obtain ⟨f', data⟩ := stepN_dataPhases_writeBytes (s := acceptCommand .writeBytes dev reg count s) (f := f)
    (h := registerTrace s.en dev reg p₁ p₂ p₃) (rest := p₄ :: rest) rfl hi hlen hcells hdata
  have run := stepN_trans (stepN_trans register data)
    (stepN_midTransaction_stop hi (hd₄ p₄ (List.mem_singleton_self _)))
  have hsteps : 10 + 3 * count.toNat = 8 + 3 * l.length + 2 := by omega
  refine ⟨_, _, exec_command_of_idle rfl hp, by rw [hsteps]; exact run, ?_⟩
  refine (finish_midTransaction hp .writeBytes dev reg count count s.buf ..).trans ?_
  simp only [registerTrace, List.append_assoc]
  rfl

/-- Settles O32: the register's phases, the repeated start and the read address, one data phase for each byte, and the
stop. -/
theorem readBytesRunsToSuccess : Obligations.ReadBytesRunsToSuccess := by
  unfold Obligations.ReadBytesRunsToSuccess
  intro s dev reg count p₁ p₂ p₃ p₄ p₅ p₆ l rest hp hi hlen hfull ha hd hdata
  obtain ⟨hd₁₂₃, hd₄₅₆⟩ : allDone [p₁, p₂, p₃] ∧ allDone [p₄, p₅, p₆] := List.forall_mem_append.mp hd
  simp only [allDone, List.forall_mem_cons] at hd₄₅₆
  obtain ⟨hd₄, hd₅, hd₆, -⟩ := hd₄₅₆
  have hlong : ¬(count.toNat = 0 ∧ s.params.rd0Full = false) := by
    rintro ⟨hzero, hshort⟩
    simp [hfull (BitVec.eq_of_toNat_eq hzero)] at hshort
  rw [List.append_assoc] at ha
  obtain ⟨f, register⟩ := stepN_registerSent (o := .readBytes) (dev := dev) (reg := reg) (a := count) (q := .rstart)
    (l := p₄ :: p₅ :: (receiveAnswers l ++ p₆ :: rest)) nofun hi ha hd₁₂₃
    (fun u hu hou hau hpu => phaseDone_regAddr_readBytes hu hou (by rw [State.cnt, hau, hpu, if_neg hlong]))
  have addrR := stepN_trans register (stepN_midTransaction_rstart (.inr rfl) hi hd₄)
  have addressed := stepN_trans addrR
    (stepN_midTransaction_send (j' := 0) rfl hi hd₅ rfl (phaseDone_addrR_readBytes rfl rfl rfl))
  obtain ⟨f', data⟩ := stepN_dataPhases_readBytes (s := acceptCommand .readBytes dev reg count s) rfl hi hlen hdata
  have run := stepN_trans (stepN_trans addressed data) (stepN_midTransaction_stop hi hd₆)
  have hsteps : 15 + 3 * count.toNat = 8 + 2 + 3 + 3 * l.length + 2 := by omega
  refine ⟨_, _, exec_command_of_idle rfl hp, by rw [hsteps]; exact run, fun k hk => ?stored, fun k hk => ?kept, ?state⟩
  case stored => exact (read_storeBytes s.buf 0 _ k).trans (by simp [hlen, hk])
  case kept => exact (read_storeBytes s.buf 0 _ k).trans (by simp [hlen, hk])
  case state =>
    refine (finish_midTransaction hp .readBytes dev reg count count _ ..).trans ?_
    simp only [registerTrace, List.append_assoc]
    rfl

/-- Settles O33: a zero count with `RD0_FULL` = 0 leads from the register's phases to the stop. -/
theorem shortZeroCountRead : Obligations.ShortZeroCountRead := by
  unfold Obligations.ShortZeroCountRead
  intro s dev reg p₁ p₂ p₃ p₄ rest hp hi hshort ha hd
  obtain ⟨hd₁₂₃, hd₄⟩ : allDone [p₁, p₂, p₃] ∧ allDone [p₄] := List.forall_mem_append.mp hd
  obtain ⟨f, register⟩ := stepN_registerSent (o := .readBytes) (dev := dev) (reg := reg) (a := 0) (q := .stop)
    (l := p₄ :: rest) nofun hi ha hd₁₂₃
    (fun u hu hou hau hpu => phaseDone_regAddr_readBytes hu hou (by rw [State.cnt, hau, hpu, if_pos ⟨rfl, hshort⟩]))
  have run := stepN_trans register (stepN_midTransaction_stop hi (hd₄ p₄ (List.mem_singleton_self _)))
  refine ⟨_, _, exec_command_of_idle rfl hp, run, ?_⟩
  exact finish_midTransaction hp .readBytes dev reg 0 0 s.buf ..

end Sys2Proof.Machine

namespace Sys2Proof.Machine

/-! ### Transactions do not leak (42_transactions.md R208) -/

/-- `u` with everything that an accepted command neither sets nor looks at taken from `x`. -/
def State.withLeftovers (u x : State) : State :=
  { u with
    div := x.div, tcnt := x.tcnt, own := x.own, result := x.result, cmderr := x.cmderr, rdata := x.rdata
    facade := x.facade, hrdata := x.hrdata, history := x.history }

/-- `u` and `v` are the same point of a command's course: they differ in leftovers only, of which `TCNT` counts while
polling and `RESULT` once it is valid. -/
def sameCourse (u v : State) : Prop :=
  (∃ x, v = u.withLeftovers x) ∧ (u.ms = .poll → v.tcnt = u.tcnt) ∧ (u.valid = true → v.result = u.result)

/-- The next states `t₁` of `s₁` and `t₂` of `s₂` are on the same course, and the same accesses lead to them. -/
def sameMove (s₁ s₂ t₁ t₂ : State) : Prop :=
  sameCourse t₁ t₂ ∧ ∃ ev, t₁.history = ev ++ s₁.history ∧ t₂.history = ev ++ s₂.history

theorem firstMicroStep_ne_poll (p : Phase) : firstMicroStep p ≠ .poll := by
  unfold firstMicroStep; split <;> nofun

section
variable {s : State}

/-! #### The turns of the sequencer, each by its phase and micro-step -/

theorem sequencerStep_init_issue (hp : s.ph = .init) (hm : s.ms = .issue) :
    sequencerStep s = .next (finish .success { facWrite .ctrl enableWord s with en := true }) := by
  rw [sequencerStep_of_phaseInstr (i := .enable) (by simp [hp, phaseInstr?]) (by simp [hm])]
  simp [exec, execEnable, hp, hm]

theorem sequencerStep_load (hs : s.ph.isSend = true) (hm : s.ms = .load) : sequencerStep s = loadByte s := by
  have hb : s.ph.isBus = true := by cases h : s.ph <;> simp_all [Phase.isSend, Phase.isBus]
  rw [sequencerStep_bus hb, hm]
  exact if_pos hs

theorem sequencerStep_issue (hb : s.ph.isBus = true) (hm : s.ms = .issue) :
    sequencerStep s = .next (issueWord s.ph.word s.en s) := by
  rw [sequencerStep_bus hb, hm]

theorem sequencerStep_poll (hb : s.ph.isBus = true) (hm : s.ms = .poll) : sequencerStep s = poll s := by
  rw [sequencerStep_bus hb, hm]

theorem sequencerStep_fetch (hr : s.ph.isReceive = true) (hm : s.ms = .fetch) :
    sequencerStep s = .next (fetch s) := by
  have hb : s.ph.isBus = true := by cases h : s.ph <;> simp_all [Phase.isReceive, Phase.isBus]
  rw [sequencerStep_bus hb, hm]
  exact if_pos hr

theorem poll_of_notDone (hd : doneFlag (facAnswer s) = false) : poll s = .next (pollNotDone (facRead .stat s)) := by
  simp [poll, hd]

/-- A run of several steps that answers takes its first step and goes on from there. -/
theorem stepN_succ_cases {n : Nat} {t : State} (h : stepN (n + 1) s = .next t) :
    ∃ m, step s = .next m ∧ stepN n m = .next t := by
  simp only [stepN] at h
  split at h
  · exact ⟨_, ‹_›, h⟩
  all_goals cases h

end

section
variable {u v t : State}

/-! #### The shared operations -/

theorem sameCourse.facRead (h : sameCourse u v) (r : FacReg) : sameCourse (facRead r u) (facRead r v) := by
  obtain ⟨⟨x, rfl⟩, hbudget, hres⟩ := h
  exact ⟨⟨Machine.facRead r (u.withLeftovers x), rfl⟩, hbudget, hres⟩

theorem sameCourse.setIdx (h : sameCourse u v) (i : Byte) : sameCourse { u with idx := i } { v with idx := i } := by
  obtain ⟨⟨x, rfl⟩, hbudget, hres⟩ := h
  exact ⟨⟨x, rfl⟩, hbudget, hres⟩

theorem sameCourse.setTcnt (h : sameCourse u v) (n : Nat) : sameCourse { u with tcnt := n } { v with tcnt := n } := by
  obtain ⟨⟨x, rfl⟩, -, hres⟩ := h
  exact ⟨⟨{ x with tcnt := n }, rfl⟩, fun _ => rfl, hres⟩

theorem sameCourse.enter (h : sameCourse u v) (p : Phase) : sameCourse (enter p u) (enter p v) := by
  obtain ⟨⟨x, rfl⟩, -, hres⟩ := h
  exact ⟨⟨x, rfl⟩, fun hm => absurd hm (firstMicroStep_ne_poll p), hres⟩

theorem sameCourse.finish (h : sameCourse u v) (c : Status) : sameCourse (finish c u) (finish c v) := by
  obtain ⟨⟨x, rfl⟩, -, -⟩ := h
  exact ⟨⟨Machine.finish c (u.withLeftovers x), rfl⟩, nofun, fun _ => rfl⟩

theorem sameCourse.configureDivisor (h : sameCourse u v) :
    sameCourse (configureDivisor u) (configureDivisor v) := by
  obtain ⟨⟨x, rfl⟩, -, hres⟩ := h
  exact ⟨⟨Machine.configureDivisor (u.withLeftovers x), rfl⟩, nofun, hres⟩

theorem sameCourse.enable (h : sameCourse u v) :
    sameCourse (Machine.finish .success { facWrite .ctrl enableWord u with en := true })
      (Machine.finish .success { facWrite .ctrl enableWord v with en := true }) := by
  obtain ⟨⟨x, rfl⟩, -, -⟩ := h
  exact ⟨⟨Machine.finish .success (facWrite .ctrl enableWord (u.withLeftovers x)), rfl⟩, nofun, fun _ => rfl⟩

theorem sameCourse.load (h : sameCourse u v) (b : Byte) :
    sameCourse { facWrite .data b u with ms := .issue } { facWrite .data b v with ms := .issue } := by
  obtain ⟨⟨x, rfl⟩, -, hres⟩ := h
  exact ⟨⟨facWrite .data b (u.withLeftovers x), rfl⟩, nofun, hres⟩

theorem sameCourse.issueWord (h : sameCourse u v) (b : Byte) (e : Bool) :
    sameCourse (issueWord b e u) (issueWord b e v) := by
  obtain ⟨⟨x, rfl⟩, -, hres⟩ := h
  exact ⟨⟨Machine.issueWord b e (u.withLeftovers x), rfl⟩, fun _ => rfl, hres⟩

theorem sameCourse.toFetch (h : sameCourse u v) : sameCourse { u with ms := .fetch } { v with ms := .fetch } := by
  obtain ⟨⟨x, rfl⟩, -, hres⟩ := h
  exact ⟨⟨x, rfl⟩, nofun, hres⟩

theorem sameCourse.storeReceived (h : sameCourse u v) (d : Byte) :
    sameCourse (storeReceived d u) (storeReceived d v) := by
  obtain ⟨⟨x, rfl⟩, hbudget, hres⟩ := h
  unfold Machine.storeReceived
  by_cases ho : u.opc = .readByte
  · rw [if_pos ho, if_pos (show (u.withLeftovers x).opc = .readByte from ho)]
    exact ⟨⟨{ x with rdata := d }, rfl⟩, hbudget, hres⟩
  · rw [if_neg ho, if_neg (show (u.withLeftovers x).opc ≠ .readByte from ho)]
    exact ⟨⟨x, rfl⟩, hbudget, hres⟩

theorem sameCourse.fetch (h : sameCourse u v) : sameCourse (fetch u) (fetch v) := by
  have hmoved := (((h.facRead .data).storeReceived (facAnswer u)).setIdx (u.idx + 1)).enter
    (afterReceive (u.idx + 1) u)
  obtain ⟨⟨x, rfl⟩, -⟩ := h
  exact hmoved

theorem sameCourse.ph_eq (h : sameCourse u v) : v.ph = u.ph := by
  obtain ⟨⟨x, rfl⟩, -⟩ := h
  rfl

theorem sameCourse.expire (h : sameCourse u v) : sameCourse (expire u) (expire v) := by
  by_cases hp : u.ph = .aborted
  · rw [Machine.expire, Machine.expire, if_pos hp, if_pos (h.ph_eq.trans hp)]
    exact h.finish .timeout
  · rw [Machine.expire, Machine.expire, if_neg hp, if_neg (h.ph_eq ▸ hp)]
    exact h.enter .aborted

theorem sameCourse.pollNotDone (h : sameCourse u v) (ht : v.tcnt = u.tcnt) :
    sameCourse (pollNotDone u) (pollNotDone v) := by
  rw [Machine.pollNotDone, Machine.pollNotDone, ht]
  by_cases hz : u.tcnt - 1 = 0
  · rw [if_pos hz, if_pos hz]
    exact (h.setTcnt 0).expire
  · rw [if_neg hz, if_neg hz]
    exact h.setTcnt _

/-- `phase_done()` looks at nothing left over. -/
theorem sameCourse.phaseDone (h : sameCourse u v) (hd : phaseDone u = .next t) :
    ∃ t', Machine.phaseDone v = .next t' ∧ sameCourse t t' := by
  have hv := h
  obtain ⟨⟨x, rfl⟩, -⟩ := hv
  rcases phaseDone_cases hd with ⟨hp, rfl⟩ | ⟨hp, rfl⟩ | ⟨hp, ho, rfl⟩ | ⟨hp, ho, hc, rfl⟩ | ⟨hp, ho, hc, rfl⟩ |
    ⟨hp, ho, rfl⟩ | ⟨hp, ho, hc, rfl⟩ | ⟨hp, ho, hc, rfl⟩ | ⟨hp, ho, rfl⟩ | ⟨hp, ho, hc, rfl⟩ | ⟨hp, ho, hc, rfl⟩ |
    ⟨hp, ho, rfl⟩ | ⟨hp, ho, rfl⟩ | ⟨hp, ho, hc, rfl⟩ | ⟨hp, ho, hc, rfl⟩ | ⟨hp, ho, hc, rfl⟩ | ⟨hp, rfl⟩ | ⟨hp, rfl⟩
  iterate 2 · exact ⟨_, by simp only [Machine.phaseDone, h.ph_eq, hp], h.enter _⟩
  · exact ⟨_, phaseDone_regAddr_writeByte hp ho, h.enter _⟩
  · exact ⟨_, phaseDone_regAddr_writeBytes hp ho (if_pos hc), h.enter _⟩
  · exact ⟨_, phaseDone_regAddr_writeBytes hp ho (if_neg hc), h.enter _⟩
  · exact ⟨_, phaseDone_regAddr_readByte hp ho, h.enter _⟩
  · exact ⟨_, phaseDone_regAddr_readBytes hp ho (if_pos hc), h.enter _⟩
  · exact ⟨_, phaseDone_regAddr_readBytes hp ho (if_neg hc), h.enter _⟩
  · exact ⟨_, phaseDone_dataW_writeByte hp ho, (h.setIdx _).enter _⟩
  · exact ⟨_, phaseDone_dataW_writeBytes hp ho hc.le (if_pos hc), (h.setIdx _).enter _⟩
  · exact ⟨_, phaseDone_dataW_writeBytes hp ho hc.le (if_neg hc.ne), (h.setIdx _).enter _⟩
  · have hread : u.opc = .readByte ∨ u.opc = .readBytes := by
      cases hopc : u.opc <;> simp [hopc, Opcode.isRead] at ho ⊢
    exact ⟨_, phaseDone_rstart hp hread, h.enter _⟩
  · exact ⟨_, phaseDone_addrR_readByte hp ho, h.enter _⟩
  · exact ⟨_, phaseDone_addrR_readBytes hp ho (if_pos hc), h.enter _⟩
  · exact ⟨_, phaseDone_addrR_readBytes hp ho ((if_neg (hc ▸ Nat.one_ne_zero)).trans (if_pos hc)), h.enter _⟩
  · exact ⟨_, phaseDone_addrR_readBytes hp ho
      ((if_neg (Nat.ne_of_gt (Nat.lt_of_succ_lt hc))).trans (if_neg (Nat.ne_of_gt hc))), h.enter _⟩
  · exact ⟨_, by simp only [Machine.phaseDone, h.ph_eq, hp], h.finish _⟩
  · exact ⟨_, by simp only [Machine.phaseDone, h.ph_eq, hp, returnFromTimeout_eq], h.finish _⟩

/-! #### One turn of the sequencer, and a run -/

theorem sameCourse.poll (h : sameCourse u v) (hm : u.ms = .poll) (hs : poll u = .next t) :
    ∃ t', Machine.poll v = .next t' ∧ sameMove u v t t' := by
  have hread := h.facRead .stat
  obtain ⟨⟨x, rfl⟩, hbudget, -⟩ := h
  rcases poll_cases hs with ⟨hd, hr, rfl⟩ | ⟨hd, hr, hdone⟩ | ⟨hd, rfl⟩
  · exact ⟨_, poll_receives hd hr, hread.toFetch, [.read .stat (facAnswer u)], rfl, rfl⟩
  · obtain ⟨t', hdone', hnext⟩ := hread.phaseDone hdone
    exact ⟨t', (poll_asksPhaseDone (s := u.withLeftovers x) hd hr).trans hdone', hnext,
      [.read .stat (facAnswer u)], phaseDone_history hdone,
      phaseDone_history hdone'⟩
  · exact ⟨_, poll_of_notDone hd, hread.pollNotDone (hbudget hm), [.read .stat (facAnswer u)], pollNotDone_history _,
      pollNotDone_history _⟩

/-- A turn of the sequencer keeps two states on the same course, with the same access. -/
theorem sameCourse.sequencerStep (h : sameCourse u v) (hs : sequencerStep u = .next t) :
    ∃ t', Machine.sequencerStep v = .next t' ∧ sameMove u v t t' := by
  have hv := h
  obtain ⟨⟨x, rfl⟩, -⟩ := hv
  rcases sequencerStep_cases hs with ⟨hp, rfl⟩ | ⟨hp, hm, rfl⟩ | ⟨hp, hm, rfl⟩ | ⟨hp, hm, hl⟩ | ⟨hb, hm, rfl⟩ |
    ⟨hb, hm, hl⟩ | ⟨hr, hm, rfl⟩
  · exact ⟨_, sequencerStep_idle hp, h, [], rfl, rfl⟩
  · exact ⟨_, sequencerStep_init_load ⟨hp, hm⟩, h.configureDivisor, [.write .baud u.arg], rfl, rfl⟩
  · exact ⟨_, sequencerStep_init_issue hp hm, h.enable, [.write .ctrl enableWord], rfl, rfl⟩
  · obtain ⟨b, hb, rfl⟩ := loadByte_cases hl
    exact ⟨_, (sequencerStep_load (s := u.withLeftovers x) hp hm).trans (loadByte_of_sendByte hb), h.load b,
      [.write .data b], rfl, rfl⟩
  · exact ⟨_, sequencerStep_issue hb hm, h.issueWord _ _, [.write .ctrl (controlWord u.ph.word u.en)], rfl, rfl⟩
  · obtain ⟨t', hl', hmove⟩ := h.poll hm hl
    exact ⟨t', (sequencerStep_poll (s := u.withLeftovers x) hb hm).trans hl', hmove⟩
  · exact ⟨_, sequencerStep_fetch hr hm, h.fetch, [.read .data (facAnswer u)], fetch_history _, fetch_history _⟩

/-- With no inputs left a run keeps two states on the same course, access by access. -/
theorem sameCourse.stepN {n : Nat} (h : sameCourse u v) (hi : u.inputs = []) (hrun : stepN n u = .next t) :
    ∃ t', Machine.stepN n v = .next t' ∧ sameMove u v t t' := by
  induction n generalizing u v with
  | zero =>
    cases hrun
    exact ⟨v, rfl, h, [], rfl, rfl⟩
  | succ n ih =>
    obtain ⟨m, hstep, hrest⟩ := stepN_succ_cases hrun
    rw [step_of_no_inputs hi] at hstep
    obtain ⟨m', hstep', hnext, ev₁, hu₁, hv₁⟩ := h.sequencerStep hstep
    obtain ⟨t', hrest', hlast, ev₂, hu₂, hv₂⟩ := ih hnext ((sequencerStep_frame hstep).2.trans hi) hrest
    have hiv : v.inputs = [] := by obtain ⟨⟨x, rfl⟩, -⟩ := h; exact hi
    refine ⟨t', (stepN_succ ((step_of_no_inputs hiv).trans hstep')).trans hrest', hlast, ev₂ ++ ev₁, ?_, ?_⟩
    · rw [hu₂, hu₁, List.append_assoc]
    · rw [hv₂, hv₁, List.append_assoc]

end

/-- Acceptance puts two idle states on the same course, whatever else earlier commands left. -/
theorem sameCourse_acceptCommand {s₁ s₂ : State} (hi : s₁.inputs = s₂.inputs) (hen : s₁.en = s₂.en)
    (hbuf : s₁.buf = s₂.buf) (hparams : s₁.params = s₂.params) (hanswers : s₁.answers = s₂.answers)
    (hfree : s₁.freeNext = s₂.freeNext) (o : Opcode) (d : DevAddr) (r a : Byte) :
    sameCourse (acceptCommand o d r a s₁) (acceptCommand o d r a s₂) := by
  refine ⟨⟨acceptCommand o d r a s₂, ?_⟩, fun hm => absurd hm (firstMicroStep_ne_poll _), nofun⟩
  simp only [acceptCommand, enter, State.withLeftovers, hi, hen, hbuf, hparams, hanswers, hfree]

/-- Settles O36: both commands are accepted onto the same course, and the sequencer alone acts from there. -/
theorem transactionsDoNotLeak : Obligations.TransactionsDoNotLeak := by
  unfold Obligations.TransactionsDoNotLeak
  intro s₁ s₂ i f hf hp₁ hp₂ hi₁ hi₂ hen hbuf hparams hanswers hfree
  obtain ⟨o, d, r, a⟩ := f
  refine ⟨_, _, exec_command_of_idle hf hp₁, exec_command_of_idle hf hp₂, fun n u₁ hrun => ?_⟩
  have haccept := sameCourse_acceptCommand (hi₁.trans hi₂.symm) hen hbuf hparams hanswers hfree o d r a
  obtain ⟨u₂, hrun₂, ⟨⟨x, rfl⟩, -, hres⟩, ev, hev₁, hev₂⟩ := haccept.stepN hi₁ hrun
  exact ⟨_, ev, hrun₂, hev₁, hev₂, rfl, rfl, rfl, rfl, fun hvalid => ⟨hvalid, (hres hvalid).symm⟩⟩

end Sys2Proof.Machine

namespace Sys2Proof.Machine

/-! ### The one exception `Timeout`: the abort entry and the return from it (60_exceptions.md R236, R238, R239) -/

/-- Outside `ABORTED` the expiry of the budget is the abort entry. -/
theorem expire_of_not_aborted {s : State} (h : s.ph ≠ .aborted) : expire s = enter .aborted s := if_neg h

/-- Inside `ABORTED` the timeout is absorbed. -/
theorem expire_of_aborted {s : State} (h : s.ph = .aborted) : expire s = finish .timeout s := if_pos h

/-- The row of R195 that ends `ABORTED` is the same for every command. -/
theorem phaseDone_aborted {s : State} (h : s.ph = .aborted) : phaseDone s = .next (finish .timeout s) := by
  simp only [phaseDone, h, returnFromTimeout_eq]

/-- Settles O26: the action's `POLL` expires, and outside `ABORTED` the expiry enters it. -/
theorem timeoutEntersAborted : Obligations.TimeoutEntersAborted := by
  unfold Obligations.TimeoutEntersAborted
  intro s i hm hp hne hph ht hd
  obtain ⟨hb, e, hi⟩ := phaseInstr_of_mem_issuingPhases hp hne
  have entry := expire_of_not_aborted (s := { facRead .stat s with tcnt := 0 }) hph
  rw [exec_phaseInstr_poll hi hb hm, poll_expires hd ht, entry]
  rfl

/-- Settles O27: the poll that saw `DONE` ends the phase by its row of the table, the last poll that did not by the
absorbed timeout. -/
theorem abortedReturnsTimeout : Obligations.AbortedReturnsTimeout := by
  unfold Obligations.AbortedReturnsTimeout
  intro s e hm hp
  have hi : phaseInstr? s.ph e = some (.stop e) := by rw [hp]; rfl
  have hb : s.ph.isBus = true := by rw [hp]; rfl
  rw [exec_phaseInstr_poll hi hb hm]
  refine ⟨fun hd => ?done, fun hd ht => ?absorbed⟩
  case done =>
    have hr : s.ph.isReceive = false := by rw [hp]; rfl
    rw [poll_asksPhaseDone hd hr, phaseDone_aborted (s := facRead .stat s) hp]
    rfl
  case absorbed =>
    rw [poll_expires hd ht, expire_of_aborted (s := { facRead .stat s with tcnt := 0 }) hp]
    rfl

end Sys2Proof.Machine

namespace Sys2Proof.Machine

/-! ### Reset (70_reset_and_hazards.md R260, R261) -/

/-- Settles O38: a CORE just out of reset holds the reset values in every element the invariant speaks of. -/
theorem resetMeetsTheInvariant : Obligations.ResetMeetsTheInvariant :=
  fun _ => inv_of_justReset

/-- Settles O51: the buffer window answers while idle with a byte as a word; the rest is read off the reset state. -/
theorem resetStateIsTheTable : Obligations.ResetStateIsTheTable := by
  unfold Obligations.ResetStateIsTheTable
  refine ⟨?elements, Memory.read_nil, ?registers, fun i => ?window, sequencerStep_idle rfl⟩
  case elements => decide
  case registers => decide
  case window =>
    have answered : hostAccess (.read (0x100#10 + i.setWidth 10)) State.reset = .next (readBufw i State.reset) := by
      rw [hostRead_bufw, busy_eq_false rfl]; rfl
    exact ⟨_, answered, byteWord_high _⟩

theorem step_of_rst {s : State} {a : Option HostAccess} {l : List Input} (h : s.inputs = .rst a :: l) :
    step s = .next (resetCycle a { s with inputs := l }) := by
  simp only [step, h]

theorem resetCycle_hrdata_of_no_read {a : Option HostAccess} (h : ¬∃ x, a = some (.read x)) (s : State) :
    (resetCycle a s).hrdata = s.hrdata := by
  rcases a with _ | x | ⟨x, w⟩
  · rfl
  · exact absurd ⟨x, rfl⟩ h
  · rfl

/-- Settles O52: the step is the reset cycle, and what it shows the host depends on the access made in it. -/
theorem resetCycleAbandonsEverything : Obligations.ResetCycleAbandonsEverything := by
  unfold Obligations.ResetCycleAbandonsEverything
  intro s a l hin
  refine ⟨_, step_of_rst hin, rfl, rfl, rfl, rfl, rfl, ?read, fun hn => resetCycle_hrdata_of_no_read hn _, rfl⟩
  rintro ⟨x, rfl⟩
  rfl

end Sys2Proof.Machine

namespace Sys2Proof.Machine

/-! ### A facade that never sets `DONE` (70_reset_and_hazards.md R274, 42_transactions.md R205) -/

/-- The phase that begins with `ISSUE` and sees no `DONE` in a whole budget of answers takes one micro-step more than
the budget, and expires. -/
theorem stepN_unansweredPhase {s : State} {l rest : List Byte} (hb : s.ph.isBus = true) (hm : s.ms = .issue)
    (hi : s.inputs = []) (ha : s.answers = l ++ rest) (hl : l.length = s.params.tmo) (hd : noneDone l) :
    stepN (1 + s.params.tmo) s = .next (expire (missedPolls l rest (issueWord s.ph.word s.en s))) := by
  have issue : stepN 1 s = .next (issueWord s.ph.word s.en s) := stepN_succ (step_issue hb hm hi)
  have hne : l ≠ [] := List.ne_nil_of_length_pos (by rw [hl]; exact Nat.succ_pos _)
  have polls := stepN_missedPolls_expire (s := issueWord s.ph.word s.en s) hb rfl hi ha hd hne hl
  rw [← hl]
  exact stepN_trans issue polls

@[simp] theorem missedPolls_ph (l rest : List Byte) (s : State) : (missedPolls l rest s).ph = s.ph := rfl

theorem ctrlWords_map_stat_append (l : List Byte) (h : List FacAccess) :
    ctrlWords (l.map (.read .stat) ++ h) = ctrlWords h := by
  induction l with
  | nil => rfl
  | cons v l ih => exact ih

theorem ctrlWords_missedPolls (l rest : List Byte) (s : State) :
    ctrlWords (missedPolls l rest s).history = ctrlWords s.history :=
  ctrlWords_map_stat_append l.reverse s.history

/-- A transaction command begins with `START` (42_transactions.md R191). -/
theorem acceptCommand_of_isTransaction {o : Opcode} (ho : o.isTransaction = true) (d : DevAddr) (r a : Byte)
    (s : State) :
    acceptCommand o d r a s =
      enter .start { s with opc := o, dev := d, reg := r, arg := a, idx := 0, valid := false, cmderr := false } := by
  have hne : o ≠ .init := by rintro rfl; cases ho
  rw [acceptCommand, if_neg hne]

/-- The state in which `START` of the accepted command `t` has seen the answers `l`. -/
def unansweredStart (t : State) (l rest : List Byte) : State :=
  missedPolls l rest (issueWord startBits t.en t)

/-- The state in which the best-effort stop after it has seen the answers `k`. -/
def unansweredStop (t : State) (l k rest : List Byte) : State :=
  missedPolls k rest (issueWord stopBits t.en (enter .aborted (unansweredStart t l (k ++ rest))))

theorem pollCount_unansweredStop (t : State) (l k rest : List Byte) :
    pollCount (unansweredStop t l k rest).history = pollCount t.history + (l.length + k.length) := by
  rw [unansweredStop, pollCount_missedPolls, issueWord_history, enter_history, unansweredStart, pollCount,
    pollCount_missedPolls, issueWord_history, pollCount, Nat.add_assoc]

theorem ctrlWords_unansweredStop (t : State) (l k rest : List Byte) :
    ctrlWords (unansweredStop t l k rest).history =
      controlWord stopBits t.en :: controlWord startBits t.en :: ctrlWords t.history := by
  rw [unansweredStop, ctrlWords_missedPolls, issueWord_history, enter_history, unansweredStart, ctrlWords,
    ctrlWords_missedPolls, issueWord_history, ctrlWords]

/-- The budget expires in `START`, which is the abort entry, and once more in `ABORTED`, which ends the command. -/
theorem stepN_unansweredTransaction {t : State} {l k rest : List Byte} (hp : t.ph = .start) (hm : t.ms = .issue)
    (hi : t.inputs = []) (ha : t.answers = l ++ (k ++ rest)) (hl : l.length = t.params.tmo)
    (hk : k.length = t.params.tmo) (hdl : noneDone l) (hdk : noneDone k) :
    stepN (2 * t.params.tmo + 2) t = .next (finish .timeout (unansweredStop t l k rest)) := by
  have start := stepN_unansweredPhase (rest := k ++ rest) (by rw [hp]; rfl) hm hi ha hl hdl
  rw [expire_of_not_aborted (by simp [hp]), hp] at start
  have stop := stepN_unansweredPhase (s := enter .aborted (unansweredStart t l (k ++ rest))) (rest := rest) rfl rfl hi
    rfl hk hdk
  rw [expire_of_aborted rfl] at stop
  have htwo : 2 * t.params.tmo + 2 = (1 + t.params.tmo) + (1 + t.params.tmo) := by omega
  rw [htwo]
  exact stepN_trans start stop

/-- Settles O34: the next answers are a budget for `START` and one for the best-effort stop. -/
theorem deadFacadeTimesOut : Obligations.DeadFacadeTimesOut := by
  unfold Obligations.DeadFacadeTimesOut
  intro s i o d r a l rest hf ho hp hi ha hl hd
  obtain ⟨l, k, rfl, hlen, hklen⟩ : ∃ m k, l = m ++ k ∧ m.length = s.params.tmo ∧ k.length = s.params.tmo :=
    ⟨l.take s.params.tmo, l.drop s.params.tmo, (List.take_append_drop ..).symm, by simp; omega, by simp; omega⟩
  obtain ⟨hdl, hdk⟩ : noneDone l ∧ noneDone k := List.forall_mem_append.mp hd
  rw [List.append_assoc] at ha
  have accepted := exec_command_of_idle hf hp
  rw [acceptCommand_of_isTransaction ho] at accepted
  refine ⟨_, _, accepted, stepN_unansweredTransaction rfl rfl hi ha hlen hklen hdl hdk, rfl, rfl, rfl, rfl, rfl, rfl,
    ?budget, ?polls, ?words, rfl, rfl, rfl⟩
  case budget => exact Nat.sub_eq_zero_of_le hklen.ge
  case polls => rw [← hl, List.length_append]; exact pollCount_unansweredStop ..
  case words => exact ctrlWords_unansweredStop ..

end Sys2Proof.Machine

namespace Sys2Proof.Machine

/-! ### Every transaction ends (70_reset_and_hazards.md R274, 41_phase_sequencer.md R157)

Each turn of the sequencer in a bus phase lowers `stepsLeft`, or ends the command. -/

/-- The most phases that can follow phase `p`: the rest of the success path (42_transactions.md R195 to R202), and
`ABORTED`. The path has `path` phases, `data` of them data phases, of which `done` have completed. -/
def Phase.ahead (path data done : Nat) : Phase → Nat
  | .start => path
  | .addrW => path - 1
  | .regAddr => path - 2
  | .rstart => data + 3
  | .addrR => data + 2
  | .dataW | .dataRAck | .dataRNack => data + 1 - done
  | .stop => 1
  | .idle | .aborted | .init => 0

/-- The most phases that can follow the one `s` is in. -/
def phasesAhead (s : State) : Nat := s.ph.ahead (pathPhases s) (dataPhases s) s.idx.toNat

/-- The most micro-steps that the present phase can still take (41_phase_sequencer.md R169). -/
def microStepsLeft (s : State) : Nat :=
  match s.ms with
  | .load => s.params.tmo + 3
  | .issue => s.params.tmo + 2
  | .poll => s.tcnt + 1
  | .fetch => 1

/-- The most micro-steps until the command is over. -/
def stepsLeft (s : State) : Nat := phasesAhead s * (s.params.tmo + 3) + microStepsLeft s

/-- The command is over in `t`, or it is in a bus phase where the measure is less than in `s`. -/
def endsOrLowers (measure : State → Nat) (s t : State) : Prop :=
  (t.ph = .idle ∧ t.valid = true) ∨ (t.ph.isBus = true ∧ measure t < measure s)

theorem microStepsLeft_pos (s : State) : 0 < microStepsLeft s := by
  unfold microStepsLeft
  split <;> omega

theorem Inv.microStepsLeft_le {s : State} (h : Inv s) : microStepsLeft s ≤ s.params.tmo + 3 := by
  have := h.budget
  unfold microStepsLeft
  split <;> omega

/-- Whatever the next phase takes, entering it costs one of the phases ahead. -/
theorem Inv.stepsLeft_lt_of_phasesAhead_lt {s t : State} (h : Inv t) (hparams : t.params = s.params)
    (hlt : phasesAhead t < phasesAhead s) : stepsLeft t < stepsLeft s := by
  have hle := h.microStepsLeft_le
  rw [hparams] at hle
  unfold stepsLeft
  calc phasesAhead t * (t.params.tmo + 3) + microStepsLeft t
      ≤ (phasesAhead t + 1) * (s.params.tmo + 3) := by rw [hparams, Nat.succ_mul]; exact Nat.add_le_add_left hle _
    _ ≤ phasesAhead s * (s.params.tmo + 3) := Nat.mul_le_mul_right _ hlt
    _ < _ := Nat.lt_add_of_pos_right (microStepsLeft_pos s)

/-- Within its phase the micro-step goes on. -/
theorem stepsLeft_lt_of_microStepsLeft_lt {s t : State} (hparams : t.params = s.params)
    (hahead : phasesAhead t = phasesAhead s) (hlt : microStepsLeft t < microStepsLeft s) :
    stepsLeft t < stepsLeft s := by
  unfold stepsLeft
  rw [hparams, hahead]
  exact Nat.add_lt_add_left hlt _

/-! The success path of each command, by its data phases. -/

theorem pathPhases_of_write {s : State} (ho : s.opc = .writeByte ∨ s.opc = .writeBytes) :
    pathPhases s = dataPhases s + 4 := by
  rcases ho with ho | ho <;> simp only [pathPhases, dataPhases, ho, Nat.add_comm]

theorem pathPhases_readByte {s : State} (ho : s.opc = .readByte) : pathPhases s = dataPhases s + 6 := by
  simp only [pathPhases, dataPhases, ho]

theorem pathPhases_readBytes {s : State} (ho : s.opc = .readBytes) (hc : ¬(s.cnt = 0 ∧ s.params.rd0Full = false)) :
    pathPhases s = dataPhases s + 6 := by
  simp only [pathPhases, dataPhases, ho, if_neg hc, Nat.add_comm]

/-- The shortest path is `START`, two sends and `STOP`. -/
theorem four_le_pathPhases {s : State} (ho : s.opc.isTransaction = true) : 4 ≤ pathPhases s := by
  cases hopc : s.opc <;> simp [hopc, Opcode.isTransaction] at ho <;> simp only [pathPhases, hopc]
  case readBytes => split <;> omega
  all_goals omega

/-- Outside `ABORTED` the abort entry is still to come. -/
theorem phasesAhead_pos {s : State} (hb : s.ph.isBus = true) (hne : s.ph ≠ .aborted) (hpos : legalPosition s) :
    0 < phasesAhead s := by
  have hpath (ho : s.opc.isTransaction = true) := four_le_pathPhases ho
  unfold phasesAhead
  cases hp : s.ph <;> simp only [legalPosition, hp] at hpos <;> simp only [Phase.ahead]
  case idle | init => simp [hp, Phase.isBus] at hb
  case aborted => exact absurd hp hne
  case start | addrW | regAddr =>
    have := hpath hpos.1
    omega
  all_goals omega

/-- Every row of R195 leads to a phase with fewer phases ahead, or ends the command. -/
theorem phaseDone_lowers {s t : State} (hpos : legalPosition s) (h : phaseDone s = .next t) :
    endsOrLowers phasesAhead s t := by
  have lower {p q : Phase} {i : Byte} (hp : s.ph = q) (hb : p.isBus = true)
      (hlt : p.ahead (pathPhases s) (dataPhases s) i.toNat < q.ahead (pathPhases s) (dataPhases s) s.idx.toNat) :
      endsOrLowers phasesAhead s (enter p { s with idx := i }) := .inr ⟨hb, by rw [← hp] at hlt; exact hlt⟩
  rcases phaseDone_cases h with ⟨hp, rfl⟩ | ⟨hp, rfl⟩ | ⟨hp, ho, rfl⟩ | ⟨hp, ho, hc, rfl⟩ | ⟨hp, ho, hc, rfl⟩ |
    ⟨hp, ho, rfl⟩ | ⟨hp, ho, hc, rfl⟩ | ⟨hp, ho, hc, rfl⟩ | ⟨hp, ho, rfl⟩ | ⟨hp, ho, hc, rfl⟩ | ⟨hp, ho, hc, rfl⟩ |
    ⟨hp, ho, rfl⟩ | ⟨hp, ho, rfl⟩ | ⟨hp, ho, hc, rfl⟩ | ⟨hp, ho, hc, rfl⟩ | ⟨hp, ho, hc, rfl⟩ | ⟨hp, rfl⟩ | ⟨hp, rfl⟩ <;>
    simp only [legalPosition, hp] at hpos
  -- from `START` and `ADDR_W`
  iterate 2
    · have hpath := four_le_pathPhases hpos.1
      exact lower hp rfl (by simp only [Phase.ahead]; omega)
  -- from `REG_ADDR`
  · have hpath := pathPhases_of_write (.inl ho)
    exact lower hp rfl (by simp only [Phase.ahead]; omega)
  iterate 2
    · have hpath := pathPhases_of_write (.inr ho)
      exact lower hp rfl (by simp only [Phase.ahead]; omega)
  · have hpath := pathPhases_readByte ho
    exact lower hp rfl (by simp only [Phase.ahead]; omega)
  · have hpath := four_le_pathPhases hpos.1
    exact lower hp rfl (by simp only [Phase.ahead]; omega)
  · have hpath := pathPhases_readBytes ho hc
    exact lower hp rfl (by simp only [Phase.ahead]; omega)
  -- from `DATA_W`
  iterate 3
    · have hsucc := toNat_idx_succ hpos.2
      exact lower hp rfl (by simp only [Phase.ahead]; omega)
  -- from `RSTART` and `ADDR_R`
  iterate 5 · exact lower hp rfl (by simp only [Phase.ahead]; omega)
  -- from `STOP` and `ABORTED`
  iterate 2 · exact .inl ⟨rfl, rfl⟩

/-- A receive phase leads to one with a byte less to receive, or to `STOP`. -/
theorem fetch_lowers {s : State} (hr : s.ph.isReceive = true) (hpos : legalPosition s) :
    endsOrLowers phasesAhead s (fetch s) := by
  have hlt := idx_lt_of_receive hr hpos
  have hsucc := toNat_idx_succ hlt
  have hnow : phasesAhead s = dataPhases s + 1 - s.idx.toNat := by
    unfold phasesAhead
    cases hp : s.ph <;> simp [hp, Phase.isReceive] at hr <;> rfl
  have hthen : phasesAhead (fetch s) =
      (afterReceive (s.idx + 1) s).ahead (pathPhases s) (dataPhases s) (s.idx + 1).toNat := by
    rw [fetch_eq]; rfl
  have hbus : (fetch s).ph.isBus = true ∧ phasesAhead (fetch s) < phasesAhead s := by
    rw [hthen, hnow, fetch, enter_ph, afterReceive_of_isReceive hr]
    repeat' split
    all_goals exact ⟨rfl, by simp only [Phase.ahead]; omega⟩
  exact .inr hbus

/-- Counting down takes one poll of the budget; its expiry is the abort entry, or ends the command. -/
theorem Inv.pollNotDone_lowers {s : State} (h : Inv s) (hm : s.ms = .poll) :
    endsOrLowers stepsLeft s (Machine.pollNotDone s) := by
  have hb := h.isBus_of_poll hm
  have ht := h.pollNotDone hm
  rcases pollNotDone_cases s with ⟨hleft, e⟩ | ⟨-, -, e⟩ | ⟨-, hne, e⟩ <;> rw [e] at ht ⊢
  · exact .inr ⟨hb, stepsLeft_lt_of_microStepsLeft_lt rfl rfl (by simp only [microStepsLeft, hm]; omega)⟩
  · exact .inl ⟨rfl, rfl⟩
  · exact .inr ⟨rfl, ht.stepsLeft_lt_of_phasesAhead_lt rfl (phasesAhead_pos hb hne h.position)⟩

/-- A turn of the sequencer goes on within the phase, enters the next one, or ends the command. -/
theorem Inv.sequencerStep_lowers {s t : State} (h : Inv s) (hb : s.ph.isBus = true)
    (hs : Machine.sequencerStep s = .next t) : endsOrLowers stepsLeft s t := by
  have hparams : t.params = s.params := (sequencerStep_writes hs).1
  have next_phase (hl : endsOrLowers phasesAhead s t) : endsOrLowers stepsLeft s t :=
    hl.imp_right fun ⟨hbus, hlt⟩ => ⟨hbus, (h.sequencerStep hs).stepsLeft_lt_of_phasesAhead_lt hparams hlt⟩
  have same_phase (hph : t.ph.isBus = true) (ha : phasesAhead t = phasesAhead s)
      (hlt : microStepsLeft t < microStepsLeft s) : endsOrLowers stepsLeft s t :=
    .inr ⟨hph, stepsLeft_lt_of_microStepsLeft_lt hparams ha hlt⟩
  rcases sequencerStep_cases hs with ⟨hp, -⟩ | ⟨hp, -⟩ | ⟨hp, -⟩ | ⟨-, hm, hl⟩ | ⟨-, hm, rfl⟩ | ⟨-, hm, hl⟩ |
    ⟨hr, -, rfl⟩
  iterate 3 · rw [hp] at hb; cases hb
  · obtain ⟨b, -, rfl⟩ := loadByte_cases hl
    exact same_phase hb rfl (by simp [microStepsLeft, hm])
  · exact same_phase hb rfl (by simp [microStepsLeft, hm])
  · rcases poll_cases hl with ⟨-, -, rfl⟩ | ⟨-, -, hd⟩ | ⟨-, rfl⟩
    · exact same_phase hb rfl (by simpa [microStepsLeft, hm] using Nat.lt_of_succ_le (h.polling hm))
    · exact next_phase (phaseDone_lowers (s := Machine.facRead .stat s) h.position hd)
    · exact (h.facRead .stat).pollNotDone_lowers hm
  · exact next_phase (fetch_lowers hr h.position)

/-- An accepted transaction on its way, the host away and the cells it sends filled. -/
structure UnderWay (s : State) : Prop where
  inv : Inv s
  bus : s.ph.isBus = true
  alone : s.inputs = []
  filled : bufFilled s

/-- A `WRITE_BYTES` keeps its cells, for the sequencer stores bytes of reads only. -/
theorem Inv.bufFilled_sequencerStep {s t : State} (h : Inv s) (hs : Machine.sequencerStep s = .next t)
    (hf : bufFilled s) : bufFilled t := by
  obtain ⟨-, hlatch, -⟩ := sequencerStep_writes hs
  obtain ⟨hopc, -, -, harg⟩ : t.opc = s.opc ∧ t.dev = s.dev ∧ t.reg = s.reg ∧ t.arg = s.arg := by simpa using hlatch
  intro ho k hk
  rw [hopc] at ho
  have hbuf : t.buf = s.buf := by
    by_contra hne
    obtain ⟨-, -, hread, -⟩ := (h.sequencerStep_data hs).2 hne
    rw [ho] at hread
    cases hread
  rw [hbuf]
  exact hf ho k (by rwa [State.cnt, ← harg])

/-- A transaction on its way takes a step, which ends it or leaves it on its way with less to come. -/
theorem UnderWay.step {s : State} (h : UnderWay s) :
    ∃ t, Machine.step s = .next t ∧ Inv t ∧
      ((t.ph = .idle ∧ t.valid = true) ∨ (UnderWay t ∧ stepsLeft t < stepsLeft s)) := by
  rw [step_of_no_inputs h.alone]
  rcases h.inv.sequencerStep_total with ⟨t, hs⟩ | ⟨-, hp, -, ho, hcell⟩
  · have ht := h.inv.sequencerStep hs
    refine ⟨t, hs, ht, (h.inv.sequencerStep_lowers h.bus hs).imp_right fun ⟨hb, hlt⟩ => ⟨?_, hlt⟩⟩
    exact ⟨ht, hb, (sequencerStep_frame hs).2.trans h.alone, h.inv.bufFilled_sequencerStep hs h.filled⟩
  · have hpos := h.inv.position
    simp only [legalPosition, hp, dataPhases_of_bytes (.inl ho)] at hpos
    have hsome := h.filled ho _ hpos.2
    rw [hcell] at hsome
    cases hsome

/-- A transaction on its way is over within the steps left, none of which stops. -/
theorem UnderWay.ends {n : Nat} {s : State} (h : UnderWay s) (hn : stepsLeft s ≤ n) :
    ∃ k u, k ≤ n ∧ stepN k s = .next u ∧ Inv u ∧ u.ph = .idle ∧ u.valid = true := by
  induction n generalizing s with
  | zero =>
    have := microStepsLeft_pos s
    unfold stepsLeft at hn
    omega
  | succ n ih =>
    obtain ⟨t, hs, ht, ⟨hp, hv⟩ | ⟨hway, hlt⟩⟩ := h.step
    · exact ⟨1, t, by omega, stepN_succ hs, ht, hp, hv⟩
    · obtain ⟨k, u, hk, hrun, hu⟩ := ih hway (by omega)
      exact ⟨k + 1, u, by omega, (stepN_succ hs).trans hrun, hu⟩

/-- `START` is followed by the rest of the path and the abort. -/
theorem stepsLeft_start_le {s : State} (h : Inv s) (hp : s.ph = .start) :
    stepsLeft s ≤ (pathPhases s + 1) * (s.params.tmo + 3) := by
  have hahead : phasesAhead s = pathPhases s := by rw [phasesAhead, hp]; rfl
  rw [stepsLeft, hahead, Nat.succ_mul]
  exact Nat.add_le_add_left h.microStepsLeft_le _

/-- Settles O35: the accepted command is on its way in `START`, and what it ends with is not `Error`. -/
theorem everyTransactionEnds : Obligations.EveryTransactionEnds := by
  unfold Obligations.EveryTransactionEnds
  intro s t i o d r a hinv hf ho hp hi ht hfill
  obtain ⟨-, rfl⟩ := exec_command_next hf ht
  have hstart := hinv.acceptCommand hp hf
  rw [acceptCommand_of_isTransaction ho] at hstart hfill ⊢
  obtain ⟨k, u, hk, hrun, hu, hidle, hvalid⟩ :=
    UnderWay.ends ⟨hstart, rfl, hi, hfill⟩ (stepsLeft_start_le hstart rfl)
  refine ⟨k, u, hk, hrun, hidle, hvalid, ?_⟩
  have hne := hu.noError
  cases hr : u.result <;> simp [hr] at hne ⊢

end Sys2Proof.Machine
